-- ==== Sys2Proof/Word.lean ====
section
/-! DEFINITION. The words of raster-clock: the fixed widths of 00_scope.md R7 and the unsigned notation of R8 and R9. -/

namespace Sys2Proof

/-- One datum of a space (data 8 bits, R7). -/
abbrev Byte := BitVec 8

/-- A header word (R100), a geometry field (R23), an address field (R111), an event id or a tag (R34). -/
abbrev Word32 := BitVec 32

/-- An operand word (R101) or a simulated time in cycles (R22). -/
abbrev Word64 := BitVec 64

/-- A target id (R26), a buffer count or a selector (R30). -/
abbrev Word16 := BitVec 16

/-- A SEL index (R107): a space, a port unit or a bank slot. -/
abbrev Sel := BitVec 4

end Sys2Proof
end

