-- ==== Sys2Proof/Syntax.lean ====
section
/-! DEFINITION. The commands of raster-clock (30_encoding.md R103, R111): one constructor per row of
spec/opcode_table.json, each operand under the width of its field. -/

namespace Sys2Proof

/-- The direction of an access, a table or a port entry (10_state.md R25, R28). -/
inductive Dir where
  | r
  | w
deriving DecidableEq, Repr

/-- DIRM of R105 without its illegal value 00: 01 is R, 10 is W, 11 is both. -/
inductive DirSet where
  | r
  | w
  | rw
deriving DecidableEq, Repr

/-- The directions of a DIRM, R before W (40_config.md R147). -/
def DirSet.dirs : DirSet → List Dir
  | .r => [.r]
  | .w => [.w]
  | .rw => [.r, .w]

/-- TKIND of R106. -/
inductive TKind where
  | device
  | bank
  | ports
  | banksel
deriving DecidableEq, Repr

/-- The read-result policy of a port unit (10_state.md R29). -/
inductive Policy where
  | last
  | first
deriving DecidableEq, Repr

/-- A command (R103). The operands are the fields of R102 and R111; a raster query carries its N flag `now`
and its time word `t`. Which combinations an encoding admits is `Instr.wf`. -/
inductive Instr where
  | cfgGeometry (cpl lpf hbs hbe vbs vbe : Word32)
  | cfgBank (b : Sel) (n : Word16) (size : Word32)
  | cfgPortunit (u : Sel) (p : Policy)
  | regRange (sp : Sel) (dm : DirSet) (ovr : Bool) (tk : TKind) (lo hi mask : Word32) (tid : Word16)
  | regPort (u : Sel) (dm : DirSet) (tk : TKind) (bitmask : Word32) (tid : Word16)
  | start
  | read (sp : Sel) (wid : BitVec 2) (addr : Word32)
  | write (sp : Sel) (wid : BitVec 2) (v : Byte) (addr : Word32)
  | step (cycles : Word64)
  | rcNow
  | rcScanline (now : Bool) (t : Word64)
  | rcHpos (now : Bool) (t : Word64)
  | rcHblank (now : Bool) (t : Word64)
  | rcVblank (now : Bool) (t : Word64)
  | rcCblank (now : Bool) (t : Word64)
  | rcLinebit (n : Byte) (now : Bool) (t : Word64)
  | schedAfter (delay : Word64) (tag : Word32)
  | schedPeriodic (period : Word64) (tag : Word32)
  | cancel (id : Word32)
  | bankSelect (b : Sel) (x : Word16)
  | bankActive (b : Sel)
  | hret (d : Byte)
deriving DecidableEq, Repr

end Sys2Proof
end

