-- ==== Sys2Proof/WellFormed.lean ====
section
/-! DEFINITION. The combinations of operands that have an encoding: 30_encoding.md R105 and R113. DIRM = 00,
which no term can write, is refused by the decoder alone. -/

namespace Sys2Proof

/-- N = 1 makes a raster query use `st.elapsed`, and W1 must then be 0 (R108, R113 case 4). -/
def timeOk (now : Bool) (t : Word64) : Bool :=
  !now || t == 0

/-- A command that some group of words encodes (R113 cases 3 and 4). -/
def Instr.wf : Instr → Bool
  | .regPort _ dm _ _ _ => dm != .rw
  | .rcScanline now t => timeOk now t
  | .rcHpos now t => timeOk now t
  | .rcHblank now t => timeOk now t
  | .rcVblank now t => timeOk now t
  | .rcCblank now t => timeOk now t
  | .rcLinebit _ now t => timeOk now t
  | .cfgGeometry .. => true
  | .cfgBank .. => true
  | .cfgPortunit .. => true
  | .regRange .. => true
  | .start => true
  | .read .. => true
  | .write .. => true
  | .step _ => true
  | .rcNow => true
  | .schedAfter .. => true
  | .schedPeriodic .. => true
  | .cancel _ => true
  | .bankSelect .. => true
  | .bankActive _ => true
  | .hret _ => true

end Sys2Proof
end

