-- ==== Sys2Proof/Decode.lean ====
section
/-! DEFINITION. The decoder of 30_encoding.md R115, total on any words and rejecting by name, and the encoder
written from the same tables (R102, R103, R111). A group is a 32-bit header and 64-bit operand words (R100);
they are whole values on the interface and have no byte order (R101). -/

namespace Sys2Proof

/-- The assigned opcodes of R103. -/
inductive Opcode where
  | cfgGeometry | cfgBank | cfgPortunit | regRange | regPort | start
  | read | write | step
  | rcNow | rcScanline | rcHpos | rcHblank | rcVblank | rcCblank | rcLinebit
  | schedAfter | schedPeriodic | cancel
  | bankSelect | bankActive | hret
deriving DecidableEq, Repr

/-- Why a group is illegal (R113). The block makes no difference between them: each is F_ILLEGAL. -/
inductive DecodeError where
  /-- OP is not in the map (R113 case 1). -/
  | unassignedOp
  /-- A header bit the command does not use is set (R110, R113 case 2). -/
  | reservedHeader
  /-- An operand bit outside the command's fields is set (R110, R113 case 2). -/
  | reservedOperand
  /-- DIRM = 00, or DIRM = 11 in REG_PORT (R105, R113 case 3). -/
  | illegalDirm
  /-- N = 1 with W1 not 0 (R113 case 4). -/
  | nowOperand
  /-- Not the L(OP) operand words of R103: no group at all. `step` never hands such words to the decoder. -/
  | operandCount
deriving DecidableEq, Repr

/-- Column OP of R103. -/
def Opcode.byte : Opcode → BitVec 8
  | .cfgGeometry => 0x01
  | .cfgBank => 0x02
  | .cfgPortunit => 0x03
  | .regRange => 0x04
  | .regPort => 0x05
  | .start => 0x06
  | .read => 0x10
  | .write => 0x11
  | .step => 0x12
  | .rcNow => 0x20
  | .rcScanline => 0x21
  | .rcHpos => 0x22
  | .rcHblank => 0x23
  | .rcVblank => 0x24
  | .rcCblank => 0x25
  | .rcLinebit => 0x26
  | .schedAfter => 0x30
  | .schedPeriodic => 0x31
  | .cancel => 0x32
  | .bankSelect => 0x40
  | .bankActive => 0x41
  | .hret => 0x7F

/-- Every assigned opcode, in the order of R103. -/
def Opcode.all : List Opcode :=
  [.cfgGeometry, .cfgBank, .cfgPortunit, .regRange, .regPort, .start, .read, .write, .step,
   .rcNow, .rcScanline, .rcHpos, .rcHblank, .rcVblank, .rcCblank, .rcLinebit,
   .schedAfter, .schedPeriodic, .cancel, .bankSelect, .bankActive, .hret]

/-- The opcode an OP field names, none where it is unassigned. -/
def Opcode.ofByte (op : BitVec 8) : Option Opcode :=
  Opcode.all.find? fun c => c.byte == op

/-- Column L of R103. -/
def Opcode.len : Opcode → Nat
  | .cfgGeometry => 3
  | .cfgBank => 1
  | .cfgPortunit => 1
  | .regRange => 2
  | .regPort => 1
  | .start => 0
  | .read => 1
  | .write => 1
  | .step => 1
  | .rcNow => 0
  | .rcScanline => 1
  | .rcHpos => 1
  | .rcHblank => 1
  | .rcVblank => 1
  | .rcCblank => 1
  | .rcLinebit => 1
  | .schedAfter => 2
  | .schedPeriodic => 2
  | .cancel => 1
  | .bankSelect => 1
  | .bankActive => 0
  | .hret => 0

/-- Column "decode mask" of R103. -/
def Opcode.headerMask : Opcode → Word32
  | .cfgGeometry => 0xFFFFFFFF
  | .cfgBank => 0xFFFFF0FF
  | .cfgPortunit => 0xFFFFF0FF
  | .regRange => 0xF3FF80FF
  | .regPort => 0xF3FFC0FF
  | .start => 0xFFFFFFFF
  | .read => 0xFCFFF0FF
  | .write => 0xFC00F0FF
  | .step => 0xFFFFFFFF
  | .rcNow => 0xFFFFFFFF
  | .rcScanline => 0xFFFF7FFF
  | .rcHpos => 0xFFFF7FFF
  | .rcHblank => 0xFFFF7FFF
  | .rcVblank => 0xFFFF7FFF
  | .rcCblank => 0xFFFF7FFF
  | .rcLinebit => 0xFF007FFF
  | .schedAfter => 0xFFFFFFFF
  | .schedPeriodic => 0xFFFFFFFF
  | .cancel => 0xFFFFFFFF
  | .bankSelect => 0xFFFFF0FF
  | .bankActive => 0xFFFFF0FF
  | .hret => 0xFF00FFFF

/-- The bits of W1, W2, W3 that R111 gives a field; every other bit is reserved (R110). -/
def Opcode.operandBits : Opcode → List Word64
  | .cfgGeometry => [0xFFFFFFFFFFFFFFFF, 0xFFFFFFFFFFFFFFFF, 0xFFFFFFFFFFFFFFFF]
  | .cfgBank => [0x0000FFFFFFFFFFFF]
  | .cfgPortunit => [0x0000000000000001]
  | .regRange => [0xFFFFFFFFFFFFFFFF, 0x0000FFFFFFFFFFFF]
  | .regPort => [0x0000FFFFFFFFFFFF]
  | .start => []
  | .read => [0x00000000FFFFFFFF]
  | .write => [0x00000000FFFFFFFF]
  | .step => [0xFFFFFFFFFFFFFFFF]
  | .rcNow => []
  | .rcScanline => [0xFFFFFFFFFFFFFFFF]
  | .rcHpos => [0xFFFFFFFFFFFFFFFF]
  | .rcHblank => [0xFFFFFFFFFFFFFFFF]
  | .rcVblank => [0xFFFFFFFFFFFFFFFF]
  | .rcCblank => [0xFFFFFFFFFFFFFFFF]
  | .rcLinebit => [0xFFFFFFFFFFFFFFFF]
  | .schedAfter => [0xFFFFFFFFFFFFFFFF, 0x00000000FFFFFFFF]
  | .schedPeriodic => [0xFFFFFFFFFFFFFFFF, 0x00000000FFFFFFFF]
  | .cancel => [0x00000000FFFFFFFF]
  | .bankSelect => [0x000000000000FFFF]
  | .bankActive => []
  | .hret => []

/-- The raster queries that carry a time word (R115's RC_QUERIES). -/
def Opcode.isTimedQuery : Opcode → Bool
  | .rcScanline => true
  | .rcHpos => true
  | .rcHblank => true
  | .rcVblank => true
  | .rcCblank => true
  | .rcLinebit => true
  | _ => false

/-! The header fields of R102. -/

def hOp (h : Word32) : BitVec 8 := h.extractLsb' 0 8
def hSel (h : Word32) : Sel := h.extractLsb' 8 4
def hDirm (h : Word32) : BitVec 2 := h.extractLsb' 12 2
def hOvr (h : Word32) : BitVec 1 := h.extractLsb' 14 1
def hNow (h : Word32) : BitVec 1 := h.extractLsb' 15 1
def hD8 (h : Word32) : Byte := h.extractLsb' 16 8
def hWid (h : Word32) : BitVec 2 := h.extractLsb' 24 2
def hTkind (h : Word32) : BitVec 2 := h.extractLsb' 26 2

/-- TKIND's codes (R106): every value decodes. -/
def TKind.ofBits (b : BitVec 2) : TKind :=
  if b = 0 then .device else if b = 1 then .bank else if b = 2 then .ports else .banksel

/-- TKIND's codes (R106). -/
def TKind.bits : TKind → BitVec 2
  | .device => 0
  | .bank => 1
  | .ports => 2
  | .banksel => 3

/-- DIRM's legal codes (R105): 01 R, 10 W, 11 both. Read only where DIRM is not 00. -/
def DirSet.ofBits (b : BitVec 2) : DirSet :=
  if b = 1 then .r else if b = 2 then .w else .rw

/-- DIRM's codes (R105). -/
def DirSet.bits : DirSet → BitVec 2
  | .r => 1
  | .w => 2
  | .rw => 3

/-- The command a legal group stands for: the fields of R102 and R111 put in their places. -/
def Opcode.build (c : Opcode) (h : Word32) (w1 w2 w3 : Word64) : Instr :=
  match c with
  | .cfgGeometry =>
    .cfgGeometry (w1.extractLsb' 0 32) (w1.extractLsb' 32 32) (w2.extractLsb' 0 32) (w2.extractLsb' 32 32)
      (w3.extractLsb' 0 32) (w3.extractLsb' 32 32)
  | .cfgBank => .cfgBank (hSel h) (w1.extractLsb' 0 16) (w1.extractLsb' 16 32)
  | .cfgPortunit => .cfgPortunit (hSel h) (if w1.extractLsb' 0 1 = 0#1 then .last else .first)
  | .regRange =>
    .regRange (hSel h) (DirSet.ofBits (hDirm h)) (hOvr h == 1#1) (TKind.ofBits (hTkind h))
      (w1.extractLsb' 0 32) (w1.extractLsb' 32 32) (w2.extractLsb' 0 32) (w2.extractLsb' 32 16)
  | .regPort =>
    .regPort (hSel h) (DirSet.ofBits (hDirm h)) (TKind.ofBits (hTkind h)) (w1.extractLsb' 0 32)
      (w1.extractLsb' 32 16)
  | .start => .start
  | .read => .read (hSel h) (hWid h) (w1.extractLsb' 0 32)
  | .write => .write (hSel h) (hWid h) (hD8 h) (w1.extractLsb' 0 32)
  | .step => .step w1
  | .rcNow => .rcNow
  | .rcScanline => .rcScanline (hNow h == 1#1) w1
  | .rcHpos => .rcHpos (hNow h == 1#1) w1
  | .rcHblank => .rcHblank (hNow h == 1#1) w1
  | .rcVblank => .rcVblank (hNow h == 1#1) w1
  | .rcCblank => .rcCblank (hNow h == 1#1) w1
  | .rcLinebit => .rcLinebit (hD8 h) (hNow h == 1#1) w1
  | .schedAfter => .schedAfter w1 (w2.extractLsb' 0 32)
  | .schedPeriodic => .schedPeriodic w1 (w2.extractLsb' 0 32)
  | .cancel => .cancel (w1.extractLsb' 0 32)
  | .bankSelect => .bankSelect (hSel h) (w1.extractLsb' 0 16)
  | .bankActive => .bankActive (hSel h)
  | .hret => .hret (hD8 h)

/-- Some operand word has a bit set that R111 gives no field of the command. -/
def operandReserved (bits ws : List Word64) : Bool :=
  (List.zip bits ws).any fun p => p.2 &&& ~~~p.1 != 0

/-- Decode one group (R115): the header word and the operand words that follow it. The checks stand in the
order of R115's pseudocode. -/
def decodeGroup (h : Word32) (ws : List Word64) : Except DecodeError Instr :=
  match Opcode.ofByte (hOp h) with
  | none => .error .unassignedOp
  | some c =>
    if ws.length ≠ c.len then .error .operandCount
    else if h &&& c.headerMask ≠ c.byte.setWidth 32 then .error .reservedHeader
    else if operandReserved c.operandBits ws then .error .reservedOperand
    else if (c = .regRange ∨ c = .regPort) ∧ hDirm h = 0 then .error .illegalDirm
    else if c = .regPort ∧ hDirm h = 3 then .error .illegalDirm
    else if c.isTimedQuery ∧ hNow h = 1 ∧ ws.getD 0 0 ≠ 0 then .error .nowOperand
    else .ok (c.build h (ws.getD 0 0) (ws.getD 1 0) (ws.getD 2 0))

/-- How many operand words follow a header (R114): L(OP), and none after an unassigned OP, whose length is
unknown (R113 case 1). -/
def operandCount (h : Word32) : Nat :=
  match Opcode.ofByte (hOp h) with
  | none => 0
  | some c => c.len

/-! The encoder. -/

/-- The fields of a header word (R102). A command leaves the fields it does not use at 0 (R110). -/
structure Header where
  op : BitVec 8
  sel : Sel := 0
  dirm : BitVec 2 := 0
  ovr : BitVec 1 := 0
  now : BitVec 1 := 0
  d8 : Byte := 0
  wid : BitVec 2 := 0
  tkind : BitVec 2 := 0
  rsv : BitVec 4 := 0
deriving DecidableEq, Repr

/-- The header word of R102: RSV, TKIND, WID, D8, N, OVR, DIRM, SEL, OP from bit 31 down to bit 0. -/
def Header.word (f : Header) : Word32 :=
  f.rsv ++ f.tkind ++ f.wid ++ f.d8 ++ f.now ++ f.ovr ++ f.dirm ++ f.sel ++ f.op

/-- The opcode of a command (R103). -/
def Instr.opcode : Instr → Opcode
  | .cfgGeometry .. => .cfgGeometry
  | .cfgBank .. => .cfgBank
  | .cfgPortunit .. => .cfgPortunit
  | .regRange .. => .regRange
  | .regPort .. => .regPort
  | .start => .start
  | .read .. => .read
  | .write .. => .write
  | .step .. => .step
  | .rcNow => .rcNow
  | .rcScanline .. => .rcScanline
  | .rcHpos .. => .rcHpos
  | .rcHblank .. => .rcHblank
  | .rcVblank .. => .rcVblank
  | .rcCblank .. => .rcCblank
  | .rcLinebit .. => .rcLinebit
  | .schedAfter .. => .schedAfter
  | .schedPeriodic .. => .schedPeriodic
  | .cancel .. => .cancel
  | .bankSelect .. => .bankSelect
  | .bankActive .. => .bankActive
  | .hret .. => .hret

/-- The header fields of a command (R102, R103). -/
def Instr.header (i : Instr) : Header :=
  match i with
  | .cfgGeometry .. => { op := i.opcode.byte }
  | .cfgBank b _ _ => { op := i.opcode.byte, sel := b }
  | .cfgPortunit u _ => { op := i.opcode.byte, sel := u }
  | .regRange sp dm ovr tk _ _ _ _ =>
    { op := i.opcode.byte, sel := sp, dirm := dm.bits, ovr := .ofBool ovr, tkind := tk.bits }
  | .regPort u dm tk _ _ => { op := i.opcode.byte, sel := u, dirm := dm.bits, tkind := tk.bits }
  | .start => { op := i.opcode.byte }
  | .read sp wid _ => { op := i.opcode.byte, sel := sp, wid := wid }
  | .write sp wid v _ => { op := i.opcode.byte, sel := sp, wid := wid, d8 := v }
  | .step _ => { op := i.opcode.byte }
  | .rcNow => { op := i.opcode.byte }
  | .rcScanline now _ => { op := i.opcode.byte, now := .ofBool now }
  | .rcHpos now _ => { op := i.opcode.byte, now := .ofBool now }
  | .rcHblank now _ => { op := i.opcode.byte, now := .ofBool now }
  | .rcVblank now _ => { op := i.opcode.byte, now := .ofBool now }
  | .rcCblank now _ => { op := i.opcode.byte, now := .ofBool now }
  | .rcLinebit n now _ => { op := i.opcode.byte, now := .ofBool now, d8 := n }
  | .schedAfter _ _ => { op := i.opcode.byte }
  | .schedPeriodic _ _ => { op := i.opcode.byte }
  | .cancel _ => { op := i.opcode.byte }
  | .bankSelect b _ => { op := i.opcode.byte, sel := b }
  | .bankActive b => { op := i.opcode.byte, sel := b }
  | .hret d => { op := i.opcode.byte, d8 := d }

/-- The operand words of a command (R111), reserved bits 0. -/
def Instr.operands : Instr → List Word64
  | .cfgGeometry cpl lpf hbs hbe vbs vbe => [lpf ++ cpl, hbe ++ hbs, vbe ++ vbs]
  | .cfgBank _ n size => [(0#16 ++ size ++ n : BitVec (16 + 32 + 16))]
  | .cfgPortunit _ p => [if p = .last then 0 else 1]
  | .regRange _ _ _ _ lo hi mask tid => [hi ++ lo, (0#16 ++ tid ++ mask : BitVec (16 + 16 + 32))]
  | .regPort _ _ _ bitmask tid => [(0#16 ++ tid ++ bitmask : BitVec (16 + 16 + 32))]
  | .start => []
  | .read _ _ addr => [addr.setWidth 64]
  | .write _ _ _ addr => [addr.setWidth 64]
  | .step cycles => [cycles]
  | .rcNow => []
  | .rcScanline _ t => [t]
  | .rcHpos _ t => [t]
  | .rcHblank _ t => [t]
  | .rcVblank _ t => [t]
  | .rcCblank _ t => [t]
  | .rcLinebit _ _ t => [t]
  | .schedAfter delay tag => [delay, tag.setWidth 64]
  | .schedPeriodic period tag => [period, tag.setWidth 64]
  | .cancel id => [id.setWidth 64]
  | .bankSelect _ x => [x.setWidth 64]
  | .bankActive _ => []
  | .hret _ => []

/-- The words of a command: its header word and its operand words (R100). -/
def encode (i : Instr) : Word32 × List Word64 :=
  (i.header.word, i.operands)

/-! Reading a group from one number, as spec/opcode_table.json numbers its bits: the header is bits 31..0 and
operand word k is the k-th 64 bits above it. -/

/-- The first n operand words of a group's number, whose bits above the header are v. -/
def wordsAbove : Nat → Nat → List Word64
  | 0, _ => []
  | n + 1, v => BitVec.ofNat 64 v :: wordsAbove n (v / 2 ^ 64)

/-- The header and the operand words of the group whose bits are the nbits low bits of w. -/
def tableGroup (nbits w : Nat) : Word32 × List Word64 :=
  let v := w % 2 ^ nbits
  let h := BitVec.ofNat 32 v
  (h, wordsAbove (operandCount h) (v / 2 ^ 32))

/-- The command the decoder reads from a group written as one number; none where it refuses. -/
def decodeTableWord (nbits w : Nat) : Option Instr :=
  match decodeGroup (tableGroup nbits w).1 (tableGroup nbits w).2 with
  | .ok i => some i
  | .error _ => none

end Sys2Proof
end

