-- ==== Sys2Proof/Config.lean ====
section
/-! DEFINITION. What an implementation fixes: the parameters of 00_scope.md R7 with their legal values and
defaults, and the free values of R11, which have no body. -/

namespace Sys2Proof

/-- OPEN_BUS of R7: what an unmapped read returns (41_access.md R176). -/
inductive OpenBus where
  | draw
  | fixed (v : Byte)
  | lastDriven (v0 : Byte)
deriving DecidableEq, Repr

/-- BANK_OOR of R7: what a bank select with an index at or above N does (45_bank.md R282). -/
inductive BankOor where
  | fault
  | modulo
  | ignore
deriving DecidableEq, Repr

/-- BANK_INIT of R7: the contents of the bank buffers when CFG_BANK creates them (10_state.md R32).
`image cells fill` is Image(f): f is the byte listed at the cell's key and `fill` at every other key. Every f
on the finitely many cells is of this form, so State stays plain data (DESIGN CHOICE, log 13). -/
inductive BankInit where
  | unwritten
  | image (cells : List Host.Cell) (fill : Byte)
deriving DecidableEq, Repr

/-- TIE_ORDER of R7: the firing order of events with equal deadlines (44_scheduler.md R256). -/
inductive TieOrder where
  | fifo
  | any
deriving DecidableEq, Repr

/-- The implementation parameters of R7. `aw` gives AW[s] for each of the 16 values SEL can take; only the
first `numSpaces` of them mean anything. -/
structure Params where
  numSpaces : Nat
  aw : Vector Nat 16
  numPortUnits : Nat
  numBanks : Nat
  maxRanges : Nat
  maxPortEntries : Nat
  maxEvents : Nat
  openBus : OpenBus
  bankOor : BankOor
  bankInit : BankInit
  tieOrder : TieOrder
deriving DecidableEq, Repr

/-- The default column of R7 (the spec's own choice, 92_eei_decisions.md D44). -/
def Params.default : Params where
  numSpaces := 2
  aw := Vector.replicate 16 16
  numPortUnits := 4
  numBanks := 4
  maxRanges := 256
  maxPortEntries := 32
  maxEvents := 64
  openBus := .draw
  bankOor := .fault
  bankInit := .unwritten
  tieOrder := .fifo

/-- The legal-values column of R7. -/
abbrev Params.Legal (p : Params) : Prop :=
  (1 ≤ p.numSpaces ∧ p.numSpaces ≤ 16) ∧
  (∀ i : Fin 16, i.val < p.numSpaces → 1 ≤ p.aw[i] ∧ p.aw[i] ≤ 32) ∧
  p.numPortUnits ≤ 16 ∧
  p.numBanks ≤ 16 ∧
  (1 ≤ p.maxRanges ∧ p.maxRanges ≤ 2 ^ 16) ∧
  (1 ≤ p.maxPortEntries ∧ p.maxPortEntries ≤ 2 ^ 16) ∧
  (1 ≤ p.maxEvents ∧ p.maxEvents ≤ 2 ^ 16)

/-- AWmax of 10_state.md R30: the largest AW[s] over the spaces that exist. -/
def Params.awMax (p : Params) : Nat :=
  (List.range p.numSpaces).foldl (fun m s => max m ((p.aw[s]?).getD 0)) 0

/-- `draw ob` of 41_access.md R176 (DESIGN CHOICE, log 4): the n-th free byte. No body: nothing can be
proved of its value. -/
opaque Config.freeByte : Nat → Byte

/-- `draw tie` of 44_scheduler.md R256 (DESIGN CHOICE, log 4): the n-th free choice, taken modulo the number
of candidates. No body. -/
opaque Config.freeTie : Nat → Nat

/-- The command index a fault records when no command has been accepted yet: `cmd_count - 1` of
60_exceptions.md R326 has no value at `cmd_count = 0` (DESIGN CHOICE, log 7). No body. -/
opaque Config.freeIndex : Nat → Word64

/-- `cmd_count` after it has counted 2^64 - 1 commands: 10_state.md R49 gives the 64-bit counter no value
there (DESIGN CHOICE, log 8). No body. -/
opaque Config.freeCount : Nat → Word64

end Sys2Proof
end

