-- ==== Sys2Proof/Machine/State.lean ====
section
/-! DEFINITION. The state of the block (10_state.md), as plain data: every register of R48 under its own name,
the command interface, and the model's own carriers (parameters, free-value counter). -/

namespace Sys2Proof.Machine

/-- The raster geometry (R23): six 32-bit fields. -/
structure Geometry where
  cpl : Word32
  lpf : Word32
  hbs : Word32
  hbe : Word32
  vbs : Word32
  vbe : Word32
deriving DecidableEq, Repr

/-- A range entry (R26). start, end and mask are AW[s] bits wide and stand zero-extended to 32. -/
structure RangeEntry where
  lo : Word32
  hi : Word32
  mask : Word32
  tkind : TKind
  tid : Word16
  ovr : Bool
deriving DecidableEq, Repr

/-- The two range tables of one space (R25), in registration order. -/
structure SpaceTables where
  r : List RangeEntry
  w : List RangeEntry
deriving DecidableEq, Repr

/-- A port entry (R28). -/
structure PortEntry where
  bitmask : Word32
  dir : Dir
  tkind : TKind
  tid : Word16
deriving DecidableEq, Repr

/-- A configured bank slot (R30): the buffer count N, the buffer size S in bytes and the selector latch (R31).
Its cells stand in `State.mem`. -/
structure Bank where
  n : Word16
  size : Word32
  sel : Word16
deriving DecidableEq, Repr

/-- An armed event (R34). -/
structure Event where
  id : Word32
  deadline : Word64
  period : Option Word64
  tag : Word32
  seq : Word64
  defer : Bool
deriving DecidableEq, Repr

/-- The bank cells that differ from their initial content: (key, byte) pairs in one canonical form, keys
strictly rising and no entry equal to what its key reads as when unlisted (log 13). -/
abbrev Memory := List Host.Cell

/-- The continuation of a suspended command (R38). -/
inductive Cont where
  | devRead (sp : Sel)
  | devWrite (sp : Sel) (v : Byte)
  | portIter (u : Word16) (dir : Dir) (off : Word32) (val : Byte) (k : Nat) (acc : Option Byte) (sp : Sel)
  | callback (id : Word32)
deriving DecidableEq, Repr

/-- R40. -/
inductive Phase where
  | config
  | run
  | failed
  | faulted
deriving DecidableEq, Repr

/-- R41. -/
inductive Ctx where
  | top
  | handler
  | callback
deriving DecidableEq, Repr

/-- The ConfigError kinds of 60_exceptions.md R322. -/
inductive CfgKind where
  | overlappingRange
  | malformedMirrorMask
  | malformedRange
  | badGeometry
  | badBank
  | badTarget
  | badSelector
  | missingGeometry
  | tableFull
deriving DecidableEq, Repr

/-- The fault codes of 60_exceptions.md R326. -/
inductive FaultCode where
  | illegal
  | phase
  | context
  | selector
  | width
  | address
  | unwritten
  | bankIndex
  | queueFull
  | idExhausted
  | timeOverflow
  | periodZero
  | restore
deriving DecidableEq, Repr

/-- One item of a ConfigError's info (R39). A direction stands as itself: the spec gives it no 64-bit code
(DESIGN CHOICE, log 12). -/
inductive InfoItem where
  | word (w : Word64)
  | dir (d : Dir)
deriving DecidableEq, Repr

/-- R39. -/
structure CfgError where
  kind : CfgKind
  cmd : Word64
  info : List InfoItem
deriving DecidableEq, Repr

/-- R42. -/
structure FaultRecord where
  code : FaultCode
  cmd : Word64
deriving DecidableEq, Repr

/-- A trace record (R45). -/
inductive TraceRec where
  | invRead (hid : Word16) (off : Word32)
  | invWrite (hid : Word16) (off : Word32) (v : Byte)
  | invCallback (tag : Word32) (id : Word32)
  | unmapped (sp : Sel) (d : Dir) (a : Word32)
  | cfgErr (kind : CfgKind) (info : List InfoItem)
  | faultRec (code : FaultCode)
deriving DecidableEq, Repr

/-- A snapshot image (R46, 60_exceptions.md R345): the serializable state. `banks` gives N, S and sel of each
configured slot, `mem` their cells, `busLatch` one byte per space under LastDriven (log 17). -/
structure Snapshot where
  elapsed : Word64
  banks : Vector (Option Bank) 16
  mem : Memory
  queue : List Event
  nextId : Word32
  nextSeq : Word64
  busLatch : List Byte
deriving DecidableEq, Repr

/-- What waits at the command interface (30_encoding.md R100), and the host operations that come between
commands (R345, 70_reset_and_hazards.md R360), in one order of arrival (20_memory.md R77; DESIGN CHOICE, log 2). -/
inductive Input where
  | header (h : Word32)
  | operand (w : Word64)
  | save
  | restore (img : Snapshot)
  | reset
deriving DecidableEq, Repr

/-- Why a step of the model stops. -/
inductive Fault where
  /-- Phase Failed or Faulted (60_exceptions.md R324): the block is stuck until reset. Raised by every meaning in those
  phases, and by `step` there when neither a save nor a reset waits. Safe: the spec gives no transition. -/
  | halted
  /-- A raster query in phase Run with no geometry (against 10_state.md R44 item 1). Raised by the raster
  queries in states no run reaches. Safe. -/
  | geometryUnset
  /-- A range or port entry that names an unconfigured bank slot (against 40_config.md R148, R153). Raised by
  READ, WRITE and HRET in states no run reaches. Safe. -/
  | slotUnconfigured
  /-- A PORTS target that names no port unit (against 40_config.md R148). Raised by READ, WRITE and HRET in
  states no run reaches. Safe. -/
  | noSuchUnit
  /-- A BANKSEL target in an R table, or a port entry whose kind R153 refuses. Raised by READ, WRITE and HRET in
  states no run reaches. Safe. -/
  | illegalTarget
  /-- A bank offset at or above S (against 45_bank.md R283): no such cell exists. Raised by READ and WRITE in
  states no run reaches. Safe. -/
  | cellOutside
  /-- HRET in context Handler or Callback with no continuation (against 10_state.md R44 item 7). Raised by HRET
  in states no run reaches. Safe. -/
  | contMissing
deriving DecidableEq, Repr

/-- Why the model has no meaning for what it was given. -/
inductive Refusal where
  /-- An instruction whose meaning is not written yet. Raised by `exec`'s arm alone. Safe. -/
  | notModelled (mnemonic : String)
  /-- At the command interface stands an operand word where a header is due, or a header where an operand word is due
  (30_encoding.md R100), and no reset waits behind: no command group, so the spec gives it no meaning. Raised by `step`.
  Safe (log 3). -/
  | misframed
deriving DecidableEq, Repr

/-- The whole state. -/
structure State where
  /-- 00_scope.md R7; the model's own carrier, written by no step (log 1). -/
  params : Params
  /-- R22. -/
  elapsed : Word64
  /-- R23; none is Unset. -/
  geo : Option Geometry
  /-- R25, indexed by SEL. -/
  ranges : Vector SpaceTables 16
  /-- R27, indexed by SEL. -/
  ports : Vector (List PortEntry) 16
  /-- R29, indexed by SEL. -/
  policy : Vector Policy 16
  /-- R30, indexed by SEL; none is Unconfigured. -/
  banks : Vector (Option Bank) 16
  /-- R32. -/
  mem : Memory
  /-- R33. -/
  queue : List Event
  /-- R35. -/
  nextId : Word32
  /-- R36. -/
  nextSeq : Word64
  /-- R37, indexed by SEL; meaningful under LastDriven alone (log 14). -/
  busLatch : Vector Byte 16
  /-- R38. -/
  cont : Option Cont
  /-- R38. -/
  pumping : Bool
  /-- R39. -/
  cfgError : Option CfgError
  /-- R40. -/
  phase : Phase
  /-- R41. -/
  ctx : Ctx
  /-- R42. -/
  fault : Option FaultRecord
  /-- R45, oldest first. -/
  trace : List TraceRec
  /-- R49. -/
  cmdCount : Word64
  /-- R100: the inputs not yet taken, oldest first (log 2). -/
  inbox : List Input
  /-- R112: the response channel, oldest first (log 19). -/
  responses : List Word64
  /-- R345: the images handed to the snapshot host, oldest first (log 18). -/
  saves : List Snapshot
  /-- The model's own count of the free values drawn (R11, log 4). -/
  draws : Nat
deriving DecidableEq, Repr

/-- The reset value of every `bus_latch[s]` (R37): v0 under LastDriven(v0). Under the other settings the latch
does not exist and the field rests at 0 (DESIGN CHOICE, log 14). -/
def busLatchReset : OpenBus → Byte
  | .lastDriven v0 => v0
  | .draw => 0
  | .fixed _ => 0

/-- The reset state of 10_state.md R48 and 70_reset_and_hazards.md R360 under the parameters p. -/
def State.resetWith (p : Params) : State where
  params := p
  elapsed := 0
  geo := none
  ranges := Vector.replicate 16 ⟨[], []⟩
  ports := Vector.replicate 16 []
  policy := Vector.replicate 16 .last
  banks := Vector.replicate 16 none
  mem := []
  queue := []
  nextId := 1
  nextSeq := 0
  busLatch := Vector.replicate 16 (busLatchReset p.openBus)
  cont := none
  pumping := false
  cfgError := none
  phase := .config
  ctx := .top
  fault := none
  trace := []
  cmdCount := 0
  inbox := []
  responses := []
  saves := []
  draws := 0

/-- The machine right after reset, under R7's default parameters. -/
def State.reset : State :=
  State.resetWith Params.default

/-- The outcome of a step or of a meaning. -/
abbrev Result := Host.Outcome State Fault Refusal

end Sys2Proof.Machine
end

