-- ==== Sys2Proof/Machine/Ops.lean ====
section
/-! DEFINITION. The named operations over registers, memory and the interface: raising an error (60_exceptions.md
R323, R326), entering and leaving an invocation (46_invocation.md R301, R305), the bank cells (45_bank.md R282 to
R284), the bus (41_access.md R176, R177) and taking a group off the command interface (30_encoding.md R100).
An operation that can end the command early answers `.error r`, where r is how the command ends. -/

namespace Sys2Proof.Machine

/-! ## Error codes -/

/-- R322, column code. -/
def CfgKind.code : CfgKind → BitVec 8
  | .overlappingRange => 0x01
  | .malformedMirrorMask => 0x02
  | .malformedRange => 0x03
  | .badGeometry => 0x04
  | .badBank => 0x05
  | .badTarget => 0x06
  | .badSelector => 0x07
  | .missingGeometry => 0x08
  | .tableFull => 0x09

/-- R326, column code. -/
def FaultCode.code : FaultCode → BitVec 8
  | .illegal => 0x01
  | .phase => 0x02
  | .context => 0x03
  | .selector => 0x04
  | .width => 0x05
  | .address => 0x06
  | .unwritten => 0x07
  | .bankIndex => 0x08
  | .queueFull => 0x09
  | .idExhausted => 0x0A
  | .timeOverflow => 0x0B
  | .periodZero => 0x0C
  | .restore => 0x0D

/-! ## Trace and responses -/

/-- `Emit(r)` (00_scope.md R10, 10_state.md R45). -/
def emit (r : TraceRec) (s : State) : State :=
  { s with trace := s.trace ++ [r] }

/-- `respond(v)` (00_scope.md R10, 30_encoding.md R112). -/
def respond (v : Word64) (s : State) : State :=
  { s with responses := s.responses ++ [v] }

/-! ## Raising an error -/

/-- The index of the command being executed: `cmd_count - 1` (10_state.md R49). Before any command was accepted
that number does not exist and the index is a free value (log 7). -/
def currentIndex (s : State) : Word64 :=
  if s.cmdCount = 0 then Config.freeIndex s.draws else s.cmdCount - 1

/-- The three effects of `raise Fault(code)` (60_exceptions.md R326), the command index given. -/
def faultState (code : FaultCode) (cmd : Word64) (s : State) : State :=
  { emit (.faultRec code) { s with fault := some ⟨code, cmd⟩ } with phase := .faulted }

/-- `raise Fault(code)` of an executing command or of restore (R326): the block ends in phase Faulted. -/
def raiseFault (code : FaultCode) (s : State) : Result :=
  .next (faultState code (currentIndex s) s)

/-- `raise Fault(F_ILLEGAL)` at decode: the index is `cmd_count`, since no group was complete (10_state.md R49). -/
def raiseIllegal (s : State) : Result :=
  .next (faultState .illegal s.cmdCount s)

/-- The effects of `raise ConfigError(kind, info)` (60_exceptions.md R323). -/
def configErrorState (kind : CfgKind) (info : List InfoItem) (s : State) : State :=
  { emit (.cfgErr kind info) { s with cfgError := some ⟨kind, currentIndex s, info⟩ } with phase := .failed }

/-- `raise ConfigError(kind, info)` (R323): the block ends in phase Failed. -/
def raiseConfig (kind : CfgKind) (info : List InfoItem) (s : State) : Result :=
  .next (configErrorState kind info s)

/-- Failed and Faulted are terminal (60_exceptions.md R324). -/
def State.halted (s : State) : Bool :=
  s.phase == .failed || s.phase == .faulted

/-- `require st.phase ∈ allowed else raise Fault(F_PHASE)`, and in Failed or Faulted no command at all (R324). -/
def inPhase (allowed : List Phase) (s : State) (body : Result) : Result :=
  if s.halted then .fault .halted
  else if s.phase ∈ allowed then body
  else raiseFault .phase s

/-! ## Invocation -/

/-- `Invoke(rec) with st.ctx <- c, st.cont <- k` (46_invocation.md R301). -/
def invoke (rec : TraceRec) (c : Ctx) (k : Cont) (s : State) : State :=
  { emit rec s with cont := some k, ctx := c }

/-- The return from an invocation (46_invocation.md R305): context Top, no continuation. -/
def endInvocation (s : State) : State :=
  { s with ctx := .top, cont := none }

/-! ## Memory -/

/-- The key of cell (b, i, off) (10_state.md R32). Different cells have different keys, since i has 16 bits and
off 32. -/
def cellKey (b : Nat) (i : Word16) (off : Word32) : Nat :=
  (b * 2 ^ 16 + i.toNat) * 2 ^ 32 + off.toNat

/-- The slot a key belongs to. -/
def keySlot (key : Nat) : Nat :=
  key / 2 ^ 48

/-- The byte listed at a key. -/
def Memory.lookup : Memory → Nat → Option Byte
  | [], _ => none
  | c :: m, key => if c.1 = key then some c.2 else Memory.lookup m key

/-- What a cell holds before anything writes it (10_state.md R32): Unwritten, or f's byte under Image(f). -/
def initialCell (init : BankInit) (key : Nat) : Option Byte :=
  match init with
  | .unwritten => none
  | .image cells fill => some ((Memory.lookup cells key).getD fill)

/-- The content of a cell: none is Unwritten. -/
def Memory.read (init : BankInit) (m : Memory) (key : Nat) : Option Byte :=
  match Memory.lookup m key with
  | some v => some v
  | none => initialCell init key

/-- Write a byte at a key, keeping the canonical form. -/
def Memory.write (init : BankInit) : Memory → Nat → Byte → Memory
  | [], key, v => if initialCell init key = some v then [] else [(key, v)]
  | c :: m, key, v =>
    if key < c.1 then (if initialCell init key = some v then c :: m else (key, v) :: c :: m)
    else if key = c.1 then (if initialCell init key = some v then m else (key, v) :: m)
    else c :: Memory.write init m key v

/-- Put every cell of slot b back to its initial content. -/
def Memory.clearSlot (m : Memory) (b : Nat) : Memory :=
  m.filter fun c => keySlot c.1 != b

/-- The canonical form: keys strictly rising, no entry equal to its key's initial content. -/
def Memory.wf (init : BankInit) (m : Memory) : Bool :=
  decide (m.Pairwise fun c c' => c.1 < c'.1) && m.all fun c => initialCell init c.1 != some c.2

/-- `st.bank[b].buf[i][off]` (10_state.md R32). -/
def State.cell (s : State) (b : Nat) (i : Word16) (off : Word32) : Option Byte :=
  Memory.read s.params.bankInit s.mem (cellKey b i off)

/-! ## Tables, units and slots -/

/-- AW[s] of the space SEL names (00_scope.md R7). -/
def spaceAw (s : State) (sp : Sel) : Nat :=
  s.params.aw[sp.toNat]'sp.isLt

/-- `st.ranges[s][d]` (10_state.md R25). -/
def rangeTable (s : State) (sp : Sel) (d : Dir) : List RangeEntry :=
  let t := s.ranges[sp.toNat]'sp.isLt
  match d with
  | .r => t.r
  | .w => t.w

/-- Append an entry to `st.ranges[s][d]`. -/
def addRange (sp : Sel) (e : RangeEntry) (s : State) (d : Dir) : State :=
  let t := s.ranges[sp.toNat]'sp.isLt
  let t' : SpaceTables := match d with
    | .r => { t with r := t.r ++ [e] }
    | .w => { t with w := t.w ++ [e] }
  { s with ranges := s.ranges.set sp.toNat t' sp.isLt }

/-- `st.ports[u]`, none where no unit has that number (10_state.md R27). -/
def portList (s : State) (u : Nat) : Option (List PortEntry) :=
  s.ports[u]?

/-- Append an entry to `st.ports[u]`. -/
def addPort (u : Sel) (e : PortEntry) (s : State) : State :=
  { s with ports := s.ports.set u.toNat (s.ports[u.toNat]'u.isLt ++ [e]) u.isLt }

/-- `st.policy[u]` (10_state.md R29); a unit that does not exist answers the reset policy. -/
def unitPolicy (s : State) (u : Nat) : Policy :=
  (s.policy[u]?).getD .last

/-- `st.bank[b]`, none where the slot is Unconfigured or does not exist (10_state.md R30). -/
def bankAt (s : State) (b : Nat) : Option Bank :=
  (s.banks[b]?).join

/-- Put a record into slot b. -/
def setBank (b : Nat) (k : Bank) (s : State) : State :=
  { s with banks := s.banks.setIfInBounds b (some k) }

/-- CFG_BANK's last line (40_config.md R143): the slot's record, selector 0 (R144), every cell at its initial
content. -/
def createBank (b : Sel) (n : Word16) (size : Word32) (s : State) : State :=
  { setBank b.toNat ⟨n, size, 0⟩ s with mem := s.mem.clearSlot b.toNat }

/-! ## Bank operations -/

/-- `bank_select(b, x)` (45_bank.md R282). -/
def bankSelect (b : Nat) (x : Word16) (s : State) : Except Result State :=
  match bankAt s b with
  | none => .error (.fault .slotUnconfigured)
  | some k =>
    if x.toNat < k.n.toNat then .ok (setBank b { k with sel := x } s)
    else match s.params.bankOor with
      | .fault => .error (raiseFault .bankIndex s)
      | .modulo => .ok (setBank b { k with sel := x % k.n } s)
      | .ignore => .ok s

/-- `BufRead(b, off)` (45_bank.md R283). -/
def bufRead (b : Nat) (off : Word32) (s : State) : Except Result Byte :=
  match bankAt s b with
  | none => .error (.fault .slotUnconfigured)
  | some k =>
    if k.size.toNat ≤ off.toNat then .error (.fault .cellOutside)
    else match s.cell b k.sel off with
      | none => .error (raiseFault .unwritten s)
      | some v => .ok v

/-- `BufWrite(b, off, v)` (45_bank.md R284). -/
def bufWrite (b : Nat) (off : Word32) (v : Byte) (s : State) : Except Result State :=
  match bankAt s b with
  | none => .error (.fault .slotUnconfigured)
  | some k =>
    if k.size.toNat ≤ off.toNat then .error (.fault .cellOutside)
    else .ok { s with mem := s.mem.write s.params.bankInit (cellKey b k.sel off) v }

/-! ## The bus -/

/-- `st.bus_latch[s]` (10_state.md R37). -/
def busLatchOf (s : State) (sp : Sel) : Byte :=
  s.busLatch[sp.toNat]'sp.isLt

/-- `open_bus(s)` (41_access.md R176): the byte, and the state after it. Under Draw the byte is a fresh free
value (log 4). -/
def openBus (sp : Sel) (s : State) : Byte × State :=
  match s.params.openBus with
  | .draw => (Config.freeByte s.draws, { s with draws := s.draws + 1 })
  | .fixed v => (v, s)
  | .lastDriven _ => (busLatchOf s sp, s)

/-- The latch update of 41_access.md R177: only under LastDriven. -/
def driveBus (sp : Sel) (v : Byte) (s : State) : State :=
  match s.params.openBus with
  | .lastDriven _ => { s with busLatch := s.busLatch.set sp.toNat v sp.isLt }
  | .draw => s
  | .fixed _ => s

/-- `finish_read(s, v)` (41_access.md R171). -/
def finishRead (sp : Sel) (v : Byte) (s : State) : State :=
  respond (v.setWidth 64) (driveBus sp v s)

/-- `finish_write(s, v)` (41_access.md R173). -/
def finishWrite (sp : Sel) (v : Byte) (s : State) : State :=
  driveBus sp v s

/-- `finish_read(s, open_bus(s))` (41_access.md R171, 42_portdispatch.md R194). -/
def finishOpenBus (sp : Sel) (s : State) : State :=
  finishRead sp (openBus sp s).1 (openBus sp s).2

/-! ## The command interface -/

/-- What stands behind a header word: its operand words and the inputs after them; or too few words yet, with nothing
or with a host operation behind them; or another header. -/
inductive Operands where
  | words (ws : List Word64) (rest : List Input)
  | waiting
  | interrupted
  | misframed
deriving DecidableEq, Repr

/-- Take the next n operand words (30_encoding.md R100, R115). -/
def takeOperands : Nat → List Input → Operands
  | 0, rest => .words [] rest
  | n + 1, .operand w :: rest =>
    match takeOperands n rest with
    | .words ws rest' => .words (w :: ws) rest'
    | .waiting => .waiting
    | .interrupted => .interrupted
    | .misframed => .misframed
  | _ + 1, [] => .waiting
  | _ + 1, .header _ :: _ => .misframed
  | _ + 1, .save :: _ => .interrupted
  | _ + 1, .restore _ :: _ => .interrupted
  | _ + 1, .reset :: _ => .interrupted

/-- A host operation (60_exceptions.md R345, 70_reset_and_hazards.md R360): no word of a command group. -/
def isHostOperation : Input → Bool
  | .save => true
  | .restore _ => true
  | .reset => true
  | .header _ => false
  | .operand _ => false

/-- What the block still answers in Failed and Faulted (60_exceptions.md R324, R347). -/
def isSaveOrReset : Input → Bool
  | .save => true
  | .reset => true
  | .restore _ => false
  | .header _ => false
  | .operand _ => false

/-- The host's reset. -/
def isReset : Input → Bool
  | .reset => true
  | .save => false
  | .restore _ => false
  | .header _ => false
  | .operand _ => false

/-- The first input that `serve` accepts, and the inputs left once it is taken. The inputs before it stay where they
are, but a reset drops them: the spec does not say what becomes of words the block has not accepted (DESIGN CHOICE,
log 25). -/
def takePast (serve : Input → Bool) : List Input → Option (Input × List Input)
  | [] => none
  | i :: rest =>
    if serve i then some (i, rest)
    else match takePast serve rest with
      | none => none
      | some (j, rest') => some (j, if isReset j then rest' else i :: rest')

/-- The words of a group as they stand at the command interface. -/
def groupInputs (g : Word32 × List Word64) : List Input :=
  .header g.1 :: g.2.map .operand

/-- `st.cmd_count <- st.cmd_count + 1` when a group has been decoded (10_state.md R49, 30_encoding.md R115). The
value after 2^64 - 1 is a free value (log 8). -/
def countCommand (s : State) : State :=
  if s.cmdCount = BitVec.allOnes 64 then
    { s with cmdCount := Config.freeCount s.draws, draws := s.draws + 1 }
  else { s with cmdCount := s.cmdCount + 1 }

end Sys2Proof.Machine
end

