-- ==== Sys2Proof/Machine/Operands.lean ====
section
/-! DEFINITION. The operand forms: the time word of a raster query (43_raster.md R227), and the mapping of an
address to a range entry and an offset (20_memory.md R62 to R68) with the checks REG_RANGE makes on an entry
(40_config.md R148). -/

namespace Sys2Proof.Machine

/-- T of R227: `st.elapsed` when N = 1, W1 when N = 0. -/
def queryTime (now : Bool) (t : Word64) (s : State) : Nat :=
  if now then s.elapsed.toNat else t.toNat

/-- `canonical(a, r) = a & r.mask` (R62). -/
def canonical (a : Word32) (e : RangeEntry) : Word32 :=
  a &&& e.mask

/-- a ∈ D(r), the decoded set in a space of aw address bits (R63). -/
def covers (aw : Nat) (e : RangeEntry) (a : Word32) : Bool :=
  decide (a.toNat < 2 ^ aw) && decide (e.lo.toNat ≤ (canonical a e).toNat) &&
    decide ((canonical a e).toNat ≤ e.hi.toNat)

/-- `offset(a, r)` (R64). -/
def rangeOffset (a : Word32) (e : RangeEntry) : Word32 :=
  canonical a e - e.lo

/-- `match(s, d, a)` (R65): the latest entry whose decoded set holds a. -/
def lookup (s : State) (sp : Sel) (d : Dir) (a : Word32) : Option RangeEntry :=
  (rangeTable s sp d).reverse.find? fun e => covers (spaceAw s sp) e a

/-! ## Deciding a condition over all addresses

R67 and R68 quantify over addresses. `sweep` runs over the bits of an address from bit 0 up and keeps the finite
set of facts that the choices so far can lead to; R68 allows any method equivalent to trying each address
(DEDUCED, log 15). -/

/-- The states reachable from S by n address bits: bit k may be 1 only where `free k`. -/
def sweep {σ : Type} [DecidableEq σ] (next : Nat → Bool → σ → σ) (free : Nat → Bool) : Nat → List σ → List σ
  | 0, S => S
  | k + 1, S =>
    let T := sweep next free k S
    (T.map (next k false) ++ (if free k then T.map (next k true) else [])).eraseDups

/-- Given whether the low bits of x are at least those of lo and at most those of hi, the same with one more
bit. -/
def boundNext (lo hi x : Bool) (c : Bool × Bool) : Bool × Bool :=
  ((x && !lo) || (x == lo && c.1), (!x && hi) || (x == hi && c.2))

/-- `mask_ok(start, end, mask)` (R67): every address of [lo, hi] is its own canonical address. -/
def maskOk (lo hi mask : Word32) : Bool :=
  !(sweep (σ := (Bool × Bool) × Bool)
      (fun k a c => (boundNext (lo.getLsbD k) (hi.getLsbD k) a c.1, c.2 || (a && !mask.getLsbD k)))
      (fun _ => true) 32 [((true, true), false)]).any fun c => c.1.1 && c.1.2 && c.2

/-- D(r1) ∩ D(r2) ≠ ∅ in a space of aw address bits (R68). -/
def overlaps (aw : Nat) (e1 e2 : RangeEntry) : Bool :=
  (sweep (σ := (Bool × Bool) × (Bool × Bool))
      (fun k a c =>
        (boundNext (e1.lo.getLsbD k) (e1.hi.getLsbD k) (a && e1.mask.getLsbD k) c.1,
         boundNext (e2.lo.getLsbD k) (e2.hi.getLsbD k) (a && e2.mask.getLsbD k) c.2))
      (fun k => decide (k < aw)) 32 [((true, true), (true, true))]).any
    fun c => c.1.1 && c.1.2 && c.2.1 && c.2.2

/-- 2^aw - 1 as an address mask (40_config.md R147). -/
def lowMask (aw : Nat) : Word32 :=
  BitVec.ofNat 32 (2 ^ aw - 1)

/-- `target_ok(tk, tid, dirs, size)` (40_config.md R148). -/
def targetOk (s : State) (tk : TKind) (tid : Word16) (dm : DirSet) (size : Nat) : Bool :=
  match tk with
  | .device => true
  | .bank =>
    decide (tid.toNat < s.params.numBanks) &&
      match bankAt s tid.toNat with
      | none => false
      | some k => k.size.toNat == size
  | .ports => decide (tid.toNat < s.params.numPortUnits)
  | .banksel =>
    decide (tid.toNat < s.params.numBanks) && (bankAt s tid.toNat).isSome && dm == .w

/-- The legality of a port entry's target (40_config.md R153). -/
def portTargetOk (s : State) (tk : TKind) (tid : Word16) (d : Dir) : Bool :=
  tk == .device ||
    (tk == .banksel && d == .w && decide (tid.toNat < s.params.numBanks) && (bankAt s tid.toNat).isSome)

/-- The first of the directions whose table is full (40_config.md R147). -/
def fullTable (s : State) (sp : Sel) (dm : DirSet) : Option Dir :=
  dm.dirs.find? fun d => (rangeTable s sp d).length == s.params.maxRanges

/-- The first entry, over the directions in order and each table from index 0, whose decoded set meets the new
entry's: its index and itself (40_config.md R147). -/
def firstConflict (s : State) (sp : Sel) (new : RangeEntry) (dm : DirSet) : Option (Nat × RangeEntry) :=
  dm.dirs.findSome? fun d =>
    ((rangeTable s sp d).zipIdx.find? fun p => overlaps (spaceAw s sp) new p.1).map fun p => (p.2, p.1)

/-- The direction a port entry takes from DIRM (40_config.md R153: Read if 01, else Write). -/
def portDir (dm : DirSet) : Dir :=
  if dm = .r then .r else .w

end Sys2Proof.Machine
end

