-- ==== Sys2Proof/Machine/PortDispatch.lean ====
section
/-! DEFINITION. PortDispatch (42_portdispatch.md): the two iterations over a unit's entry list, each from a given
index, so that HRET resumes them where an invocation suspended them (46_invocation.md R302). -/

namespace Sys2Proof.Machine

/-- An entry answers offset o in direction d (R191, R194): `o & bitmask ≠ 0`. -/
def portMatches (d : Dir) (o : Word32) (e : PortEntry) : Bool :=
  e.dir == d && (o &&& e.bitmask) != 0

/-- The loop of `dispatch_write(u, o, v, s)` (R191) over the entries from index k on. -/
def dispatchWrite (u : Word16) (o : Word32) (v : Byte) (sp : Sel) : Nat → List PortEntry → State → Result
  | _, [], s => .next (finishWrite sp v s)
  | k, e :: es, s =>
    if portMatches .w o e then
      match e.tkind with
      | .device =>
        .next (invoke (.invWrite e.tid o v) .handler (.portIter u .w o v (k + 1) none sp) s)
      | .banksel =>
        match bankSelect e.tid.toNat (v.setWidth 16) s with
        | .ok s' => dispatchWrite u o v sp (k + 1) es s'
        | .error r => r
      | .bank => .fault .illegalTarget
      | .ports => .fault .illegalTarget
    else dispatchWrite u o v sp (k + 1) es s

/-- The loop of `dispatch_read(u, o, s)` (R194) over the entries from index k on, `acc` the result so far. -/
def dispatchRead (u : Word16) (o : Word32) (sp : Sel) (acc : Option Byte) : Nat → List PortEntry → State → Result
  | _, [], s =>
    match acc with
    | some v => .next (finishRead sp v s)
    | none => .next (finishOpenBus sp s)
  | k, e :: es, s =>
    if portMatches .r o e then
      match e.tkind with
      | .device => .next (invoke (.invRead e.tid o) .handler (.portIter u .r o 0 (k + 1) acc sp) s)
      | .banksel => .fault .illegalTarget
      | .bank => .fault .illegalTarget
      | .ports => .fault .illegalTarget
    else dispatchRead u o sp acc (k + 1) es s

/-- The result so far after one more Read handler has answered d (R194, R195). -/
def mergeRead (p : Policy) (acc : Option Byte) (d : Byte) : Option Byte :=
  match p with
  | .last => some d
  | .first => some (acc.getD d)

/-- `dispatch_write(u, o, v, s)` from index k (R191). -/
def portWrite (u : Word16) (o : Word32) (v : Byte) (sp : Sel) (k : Nat) (s : State) : Result :=
  match portList s u.toNat with
  | none => .fault .noSuchUnit
  | some es => dispatchWrite u o v sp k (es.drop k) s

/-- `dispatch_read(u, o, s)` from index k (R194). -/
def portRead (u : Word16) (o : Word32) (sp : Sel) (acc : Option Byte) (k : Nat) (s : State) : Result :=
  match portList s u.toNat with
  | none => .fault .noSuchUnit
  | some es => dispatchRead u o sp acc k (es.drop k) s

end Sys2Proof.Machine
end

