-- ==== Sys2Proof/Machine/Access.lean ====
section
/-! DEFINITION. The AddressSpace accesses (41_access.md): READ and WRITE. -/

namespace Sys2Proof.Machine

/-- `access_checks` (R170), in its order. -/
def accessChecks (sp : Sel) (wid : BitVec 2) (a : Word32) (s : State) (body : Result) : Result :=
  inPhase [.run] s <|
    if s.ctx ≠ .top then raiseFault .context s
    else if s.params.numSpaces ≤ sp.toNat then raiseFault .selector s
    else if wid ≠ 0 then raiseFault .width s
    else if 2 ^ spaceAw s sp ≤ a.toNat then raiseFault .address s
    else body

/-- A READ that reaches the entry e (R171). -/
def readTarget (sp : Sel) (a : Word32) (e : RangeEntry) (s : State) : Result :=
  match e.tkind with
  | .device => .next (invoke (.invRead e.tid (rangeOffset a e)) .handler (.devRead sp) s)
  | .bank =>
    match bufRead e.tid.toNat (rangeOffset a e) s with
    | .ok v => .next (finishRead sp v s)
    | .error r => r
  | .ports => portRead e.tid (rangeOffset a e) sp none 0 s
  | .banksel => .fault .illegalTarget

/-- READ (R171, R175). -/
def execRead (sp : Sel) (wid : BitVec 2) (a : Word32) (s : State) : Result :=
  accessChecks sp wid a s <|
    match lookup s sp .r a with
    | none => .next (finishOpenBus sp (emit (.unmapped sp .r a) s))
    | some e => readTarget sp a e s

/-- A WRITE that reaches the entry e (R173). -/
def writeTarget (sp : Sel) (v : Byte) (a : Word32) (e : RangeEntry) (s : State) : Result :=
  match e.tkind with
  | .device => .next (invoke (.invWrite e.tid (rangeOffset a e) v) .handler (.devWrite sp v) s)
  | .bank =>
    match bufWrite e.tid.toNat (rangeOffset a e) v s with
    | .ok s' => .next (finishWrite sp v s')
    | .error r => r
  | .ports => portWrite e.tid (rangeOffset a e) v sp 0 s
  | .banksel =>
    match bankSelect e.tid.toNat (v.setWidth 16) s with
    | .ok s' => .next (finishWrite sp v s')
    | .error r => r

/-- WRITE (R173, R175). -/
def execWrite (sp : Sel) (wid : BitVec 2) (v : Byte) (a : Word32) (s : State) : Result :=
  accessChecks sp wid a s <|
    match lookup s sp .w a with
    | none => .next (finishWrite sp v (emit (.unmapped sp .w a) s))
    | some e => writeTarget sp v a e s

end Sys2Proof.Machine
end

