-- ==== Sys2Proof/Machine/BankSlot.lean ====
section
/-! DEFINITION. The bank commands (45_bank.md): BANK_SELECT and BANK_ACTIVE. -/

namespace Sys2Proof.Machine

/-- The slot SEL names, none where SEL is at or above NUM_BANKS or the slot is Unconfigured (R281, R286). -/
def namedBank (s : State) (b : Sel) : Option Bank :=
  if s.params.numBanks ≤ b.toNat then none else bankAt s b.toNat

/-- BANK_SELECT (R281). -/
def execBankSelect (b : Sel) (x : Word16) (s : State) : Result :=
  inPhase [.run] s <|
    match namedBank s b with
    | none => raiseFault .selector s
    | some _ =>
      match bankSelect b.toNat x s with
      | .ok s' => .next s'
      | .error r => r

/-- BANK_ACTIVE (R286). -/
def execBankActive (b : Sel) (s : State) : Result :=
  inPhase [.run] s <|
    match namedBank s b with
    | none => raiseFault .selector s
    | some k => .next (respond (k.sel.setWidth 64) s)

end Sys2Proof.Machine
end

