-- ==== Sys2Proof/Machine/Flags.lean ====
section
/-! DEFINITION. The raster decoder (43_raster.md R210 to R217) and the status outputs (10_state.md R43): the
block's only flags, each a pure function of a time and the geometry. -/

namespace Sys2Proof.Machine

/-- A legal geometry (10_state.md R24). -/
abbrev Geometry.Legal (g : Geometry) : Prop :=
  1 ≤ g.cpl.toNat ∧ 1 ≤ g.lpf.toNat ∧ g.hbs.toNat ≤ g.cpl.toNat ∧ g.hbe.toNat ≤ g.cpl.toNat ∧
    g.vbs.toNat ≤ g.lpf.toNat ∧ g.vbe.toNat ≤ g.lpf.toNat

/-- The frame period F (R211). -/
def framePeriod (g : Geometry) : Nat :=
  g.cpl.toNat * g.lpf.toNat

/-- `scanline_at(t)` (R212). -/
def scanlineAt (g : Geometry) (t : Nat) : Nat :=
  (t / g.cpl.toNat) % g.lpf.toNat

/-- `hpos_at(t)` (R212). -/
def hposAt (g : Geometry) (t : Nat) : Nat :=
  t % g.cpl.toNat

/-- `in_window(x, ws, we)` (R213): half-open, wrapping when ws > we. -/
def inWindow (x ws we : Nat) : Bool :=
  if ws ≤ we then decide (ws ≤ x) && decide (x < we) else decide (ws ≤ x) || decide (x < we)

/-- `is_hblank(t)` (R214). -/
def isHblank (g : Geometry) (t : Nat) : Bool :=
  inWindow (hposAt g t) g.hbs.toNat g.hbe.toNat

/-- `is_vblank(t)` (R215). -/
def isVblank (g : Geometry) (t : Nat) : Bool :=
  inWindow (scanlineAt g t) g.vbs.toNat g.vbe.toNat

/-- `is_composite_blank(t)` (R216): vertical blank and not horizontal blank. -/
def isCblank (g : Geometry) (t : Nat) : Bool :=
  isVblank g t && !isHblank g t

/-- `line_parity_bit(n)(t)` (R217): bit n of the scanline number. -/
def lineBit (g : Geometry) (n : Nat) (t : Nat) : Bool :=
  (scanlineAt g t).testBit n

/-- A 1-bit result on the response channel (30_encoding.md R112). -/
def boolWord (b : Bool) : Word64 :=
  if b then 1 else 0

/-- The five status outputs (10_state.md R43). -/
structure StatusOutputs where
  scanline : Word32
  hpos : Word32
  hblank : Bool
  vblank : Bool
  cblank : Bool
deriving DecidableEq, Repr

/-- The status outputs at `st.elapsed`; defined only in phase Run (R43). -/
def statusOutputs (s : State) : Option StatusOutputs :=
  match s.phase, s.geo with
  | .run, some g =>
    some
      { scanline := BitVec.ofNat 32 (scanlineAt g s.elapsed.toNat)
        hpos := BitVec.ofNat 32 (hposAt g s.elapsed.toNat)
        hblank := isHblank g s.elapsed.toNat
        vblank := isVblank g s.elapsed.toNat
        cblank := isCblank g s.elapsed.toNat }
  | _, _ => none

end Sys2Proof.Machine
end

