-- ==== Sys2Proof/Machine/Configuration.lean ====
section
/-! DEFINITION. The registration family (40_config.md): CFG_GEOMETRY, CFG_BANK, CFG_PORTUNIT, REG_RANGE, REG_PORT,
START. The checks stand in the order of 60_exceptions.md R329. -/

namespace Sys2Proof.Machine

/-- A field as an item of a ConfigError's info (10_state.md R39). -/
def infoWord {w : Nat} (v : BitVec w) : InfoItem :=
  .word (v.setWidth 64)

/-- CFG_GEOMETRY (R141, R142). -/
def execCfgGeometry (cpl lpf hbs hbe vbs vbe : Word32) (s : State) : Result :=
  inPhase [.config] s <|
    let g : Geometry := ⟨cpl, lpf, hbs, hbe, vbs, vbe⟩
    if g.Legal then .next { s with geo := some g }
    else raiseConfig .badGeometry [.word (lpf ++ cpl), .word (hbe ++ hbs), .word (vbe ++ vbs)] s

/-- CFG_BANK (R143, R144). -/
def execCfgBank (b : Sel) (n : Word16) (size : Word32) (s : State) : Result :=
  inPhase [.config] s <|
    if s.params.numBanks ≤ b.toNat then raiseConfig .badSelector [infoWord b] s
    else if (bankAt s b.toNat).isSome ∨ n = 0 ∨ size = 0 ∨ 2 ^ s.params.awMax < size.toNat then
      raiseConfig .badBank [infoWord b, infoWord n, infoWord size] s
    else .next (createBank b n size s)

/-- CFG_PORTUNIT (R145, R146). -/
def execCfgPortunit (u : Sel) (p : Policy) (s : State) : Result :=
  inPhase [.config] s <|
    if s.params.numPortUnits ≤ u.toNat then raiseConfig .badSelector [infoWord u] s
    else .next { s with policy := s.policy.set u.toNat p u.isLt }

/-- The entry REG_RANGE registers: the bits of the mask at or above AW[s] are dropped (30_encoding.md R111). -/
def newRange (s : State) (sp : Sel) (ovr : Bool) (tk : TKind) (lo hi mask : Word32) (tid : Word16) : RangeEntry :=
  { lo := lo, hi := hi, mask := mask &&& lowMask (spaceAw s sp), tkind := tk, tid := tid, ovr := ovr }

/-- REG_RANGE (R147 to R151). The info of MalformedRange and MalformedMirrorMask begins with the space, as the pseudocode of
R147 has it (DEDUCED, log 11). -/
def execRegRange (sp : Sel) (dm : DirSet) (ovr : Bool) (tk : TKind) (lo hi mask : Word32) (tid : Word16)
    (s : State) : Result :=
  inPhase [.config] s <|
    if s.params.numSpaces ≤ sp.toNat then raiseConfig .badSelector [infoWord sp] s
    else
      let e := newRange s sp ovr tk lo hi mask tid
      if hi.toNat < lo.toNat ∨ 2 ^ spaceAw s sp ≤ hi.toNat then
        raiseConfig .malformedRange [infoWord sp, infoWord lo, infoWord hi] s
      else if maskOk lo hi e.mask = false then
        raiseConfig .malformedMirrorMask [infoWord sp, infoWord lo, infoWord hi, infoWord e.mask] s
      else if targetOk s tk tid dm (hi.toNat - lo.toNat + 1) = false then
        raiseConfig .badTarget [infoWord tk.bits, infoWord tid] s
      else match fullTable s sp dm with
        | some d => raiseConfig .tableFull [infoWord sp, .dir d] s
        | none =>
          match (if ovr then none else firstConflict s sp e dm) with
          | some (k, old) =>
            raiseConfig .overlappingRange
              [infoWord lo, infoWord hi, .word (BitVec.ofNat 64 k), infoWord old.lo, infoWord old.hi] s
          | none => .next (dm.dirs.foldl (addRange sp e) s)

/-- REG_PORT (R153, R154). -/
def execRegPort (u : Sel) (dm : DirSet) (tk : TKind) (bitmask : Word32) (tid : Word16) (s : State) : Result :=
  inPhase [.config] s <|
    if s.params.numPortUnits ≤ u.toNat then raiseConfig .badSelector [infoWord u] s
    else if portTargetOk s tk tid (portDir dm) = false then
      raiseConfig .badTarget [infoWord tk.bits, infoWord tid] s
    else if (s.ports[u.toNat]'u.isLt).length = s.params.maxPortEntries then
      raiseConfig .tableFull [infoWord u] s
    else .next (addPort u { bitmask := bitmask, dir := portDir dm, tkind := tk, tid := tid } s)

/-- START (R156, R157). -/
def execStart (s : State) : Result :=
  inPhase [.config] s <|
    if s.geo.isNone then raiseConfig .missingGeometry [] s
    else .next { s with phase := .run }

end Sys2Proof.Machine
end

