-- ==== Sys2Proof/Machine/Scheduler.lean ====
section
/-! DEFINITION. The TimerScheduler (44_scheduler.md): SCHED_AFTER, SCHED_PERIODIC, CANCEL, STEP and the pump. -/

namespace Sys2Proof.Machine

/-- Remove the events with an id from the queue. -/
def removeEvent (id : Word32) (q : List Event) : List Event :=
  q.filter fun e => e.id != id

/-- "insert or replace e in st.queue" (R241): an event with e's id gives way to e, and otherwise e joins. -/
def putEvent (e : Event) (q : List Event) : List Event :=
  if q.any fun x => x.id == e.id then q.map fun x => if x.id == e.id then e else x
  else q ++ [e]

/-- `alloc_id()` (R241, 10_state.md R35): the new id and the state after it. -/
def allocId (s : State) : Except Result (Word32 × State) :=
  if s.nextId = 0 then .error (raiseFault .idExhausted s)
  else .ok (s.nextId, { s with nextId := s.nextId + 1 })

/-- `arm(e)` (R241): seq and defer are set, and the queue holds e. -/
def arm (e : Event) (s : State) : Except Result State :=
  if s.nextSeq = BitVec.allOnes 64 then .error (raiseFault .idExhausted s)
  else .ok
    { s with
      nextSeq := s.nextSeq + 1
      queue := putEvent { e with seq := s.nextSeq, defer := s.ctx == .callback } s.queue }

/-- The lines SCHED_AFTER and SCHED_PERIODIC share (R241, R243): the overflow check (60_exceptions.md R327), the
capacity check, the id, the arming and the response. Where `arm` faults, `alloc_id()` has already moved
next_id (DEDUCED, log 9). -/
def schedule (delay : Word64) (period : Option Word64) (tag : Word32) (s : State) : Result :=
  if 2 ^ 64 ≤ s.elapsed.toNat + delay.toNat then raiseFault .timeOverflow s
  else if s.queue.length = s.params.maxEvents then raiseFault .queueFull s
  else match allocId s with
    | .error r => r
    | .ok (id, s1) =>
      match arm { id := id, deadline := s.elapsed + delay, period := period, tag := tag, seq := 0, defer := false }
        s1 with
      | .error r => r
      | .ok s2 => .next (respond (id.setWidth 64) s2)

/-- SCHED_AFTER (R241, R242, R247). -/
def execSchedAfter (delay : Word64) (tag : Word32) (s : State) : Result :=
  inPhase [.config, .run] s <| schedule delay none tag s

/-- SCHED_PERIODIC (R243, R244, R247). -/
def execSchedPeriodic (period : Word64) (tag : Word32) (s : State) : Result :=
  inPhase [.config, .run] s <|
    if period = 0 then raiseFault .periodZero s
    else schedule period (some period) tag s

/-- CANCEL (R245, R246). -/
def execCancel (id : Word32) (s : State) : Result :=
  inPhase [.config, .run] s <| .next { s with queue := removeEvent id s.queue }

/-! ## The pump -/

/-- An event is due (R251): not deferred, and its deadline is not after `st.elapsed`. -/
def isDue (s : State) (e : Event) : Bool :=
  !e.defer && decide (e.deadline.toNat ≤ s.elapsed.toNat)

/-- The due events (R251). -/
def dueEvents (s : State) : List Event :=
  s.queue.filter (isDue s)

/-- The least deadline in a list of events; 0 of none. -/
def leastDeadline : List Event → Nat
  | [] => 0
  | e :: es => es.foldl (fun m x => min m x.deadline.toNat) e.deadline.toNat

/-- The events of a list with the least deadline. -/
def earliest (es : List Event) : List Event :=
  es.filter fun e => e.deadline.toNat == leastDeadline es

/-- The event with the least seq (R256, Fifo). -/
def leastSeq : List Event → Option Event
  | [] => none
  | e :: es => some (es.foldl (fun m x => if x.seq.toNat < m.seq.toNat then x else m) e)

/-- `pick(due)` (R256): the least deadline; among equal deadlines the least seq under Fifo, and any one of them
under Any (a free choice, log 4). None of no due event. -/
def pickDue (s : State) : Option Event :=
  let es := earliest (dueEvents s)
  match s.params.tieOrder with
  | .fifo => leastSeq es
  | .any => es[Config.freeTie s.draws % es.length]?

/-- The state after `pick`: under Any one free choice has been drawn. -/
def afterPick (s : State) : State :=
  match s.params.tieOrder with
  | .fifo => s
  | .any => { s with draws := s.draws + 1 }

/-- Armed -> Fired (R248, R251): a one-shot event leaves the queue; a periodic one is re-armed at its deadline
plus its period, with the checks of R251. -/
def fireEvent (e : Event) (s : State) : Except Result State :=
  match e.period with
  | none => .ok { s with queue := removeEvent e.id s.queue }
  | some p =>
    if 2 ^ 64 ≤ e.deadline.toNat + p.toNat then .error (raiseFault .timeOverflow s)
    else
      let e' := { e with deadline := e.deadline + p }
      arm e' { s with queue := putEvent e' s.queue }

/-- `pump_continue()` (R251). -/
def pumpContinue (s : State) : Result :=
  match pickDue s with
  | none => .next { s with pumping := false }
  | some e =>
    match fireEvent e (afterPick s) with
    | .error r => r
    | .ok s' => .next (invoke (.invCallback e.tag e.id) .callback (.callback e.id) s')

/-- The state in which `pump()` starts firing (R251): every defer bit cleared, pumping set. -/
def pumpStart (s : State) : State :=
  { s with queue := s.queue.map (fun e => { e with defer := false }), pumping := true }

/-- STEP (R250). -/
def execStep (cycles : Word64) (s : State) : Result :=
  inPhase [.run] s <|
    if s.ctx ≠ .top then raiseFault .context s
    else if 2 ^ 64 ≤ s.elapsed.toNat + cycles.toNat then raiseFault .timeOverflow s
    else pumpContinue (pumpStart { s with elapsed := s.elapsed + cycles })

end Sys2Proof.Machine
end

