-- ==== Sys2Proof/Machine/Invocation.lean ====
section
/-! DEFINITION. HRET (46_invocation.md R305) and the continuations it applies (R302). -/

namespace Sys2Proof.Machine

/-- "apply k to d" (R302), in the state after `st.ctx <- Top; st.cont <- None`. -/
def resume (k : Cont) (d : Byte) (s : State) : Result :=
  match k with
  | .devRead sp => .next (finishRead sp d s)
  | .devWrite sp v => .next (finishWrite sp v s)
  | .portIter u .w o v k _ sp => portWrite u o v sp k s
  | .portIter u .r o _ k acc sp => portRead u o sp (mergeRead (unitPolicy s u.toNat) acc d) k s
  | .callback _ => pumpContinue s

/-- HRET (R305). -/
def execHret (d : Byte) (s : State) : Result :=
  inPhase [.run] s <|
    if s.ctx = .top then raiseFault .context s
    else match s.cont with
      | none => .fault .contMissing
      | some k => resume k d (endInvocation s)

end Sys2Proof.Machine
end

