-- ==== Sys2Proof/Machine/Raster.lean ====
section
/-! DEFINITION. The raster queries (43_raster.md R220 to R227): accepted in phase Run in every context, they
write nothing but their response. -/

namespace Sys2Proof.Machine

/-- A query of the decoder (R227): in phase Run it responds f of the geometry. -/
def rasterQuery (s : State) (f : Geometry → Word64) : Result :=
  inPhase [.run] s <|
    match s.geo with
    | none => .fault .geometryUnset
    | some g => .next (respond (f g) s)

/-- RC_NOW (R220). -/
def execRcNow (s : State) : Result :=
  inPhase [.run] s <| .next (respond s.elapsed s)

/-- RC_SCANLINE (R221). -/
def execRcScanline (now : Bool) (t : Word64) (s : State) : Result :=
  rasterQuery s fun g => BitVec.ofNat 64 (scanlineAt g (queryTime now t s))

/-- RC_HPOS (R222). -/
def execRcHpos (now : Bool) (t : Word64) (s : State) : Result :=
  rasterQuery s fun g => BitVec.ofNat 64 (hposAt g (queryTime now t s))

/-- RC_HBLANK (R223). -/
def execRcHblank (now : Bool) (t : Word64) (s : State) : Result :=
  rasterQuery s fun g => boolWord (isHblank g (queryTime now t s))

/-- RC_VBLANK (R224). -/
def execRcVblank (now : Bool) (t : Word64) (s : State) : Result :=
  rasterQuery s fun g => boolWord (isVblank g (queryTime now t s))

/-- RC_CBLANK (R225). -/
def execRcCblank (now : Bool) (t : Word64) (s : State) : Result :=
  rasterQuery s fun g => boolWord (isCblank g (queryTime now t s))

/-- RC_LINEBIT (R226). -/
def execRcLinebit (n : Byte) (now : Bool) (t : Word64) (s : State) : Result :=
  rasterQuery s fun g => boolWord (lineBit g n.toNat (queryTime now t s))

end Sys2Proof.Machine
end

