-- ==== Sys2Proof/Machine/Dispatch.lean ====
section
/-! DEFINITION. One arm per command of 30_encoding.md R103, each one call of its meaning. -/

namespace Sys2Proof.Machine

def exec (i : Instr) (s : State) : Host.Outcome State Fault Refusal :=
  match i with
  | .cfgGeometry cpl lpf hbs hbe vbs vbe => Sys2Proof.Machine.execCfgGeometry cpl lpf hbs hbe vbs vbe s
  | .cfgBank b n size => Sys2Proof.Machine.execCfgBank b n size s
  | .cfgPortunit u p => Sys2Proof.Machine.execCfgPortunit u p s
  | .regRange sp dm ovr tk lo hi mask tid => Sys2Proof.Machine.execRegRange sp dm ovr tk lo hi mask tid s
  | .regPort u dm tk bitmask tid => Sys2Proof.Machine.execRegPort u dm tk bitmask tid s
  | .start => Sys2Proof.Machine.execStart s
  | .read sp wid addr => Sys2Proof.Machine.execRead sp wid addr s
  | .write sp wid v addr => Sys2Proof.Machine.execWrite sp wid v addr s
  | .step cycles => Sys2Proof.Machine.execStep cycles s
  | .rcNow => Sys2Proof.Machine.execRcNow s
  | .rcScanline now t => Sys2Proof.Machine.execRcScanline now t s
  | .rcHpos now t => Sys2Proof.Machine.execRcHpos now t s
  | .rcHblank now t => Sys2Proof.Machine.execRcHblank now t s
  | .rcVblank now t => Sys2Proof.Machine.execRcVblank now t s
  | .rcCblank now t => Sys2Proof.Machine.execRcCblank now t s
  | .rcLinebit n now t => Sys2Proof.Machine.execRcLinebit n now t s
  | .schedAfter delay tag => Sys2Proof.Machine.execSchedAfter delay tag s
  | .schedPeriodic period tag => Sys2Proof.Machine.execSchedPeriodic period tag s
  | .cancel id => Sys2Proof.Machine.execCancel id s
  | .bankSelect b x => Sys2Proof.Machine.execBankSelect b x s
  | .bankActive b => Sys2Proof.Machine.execBankActive b s
  | .hret d => Sys2Proof.Machine.execHret d s

end Sys2Proof.Machine
end

