-- ==== Sys2Proof/Machine/Snapshot.lean ====
section
/-! DEFINITION. The host operations: save and restore (60_exceptions.md R345 to R347) and reset
(70_reset_and_hazards.md R360). -/

namespace Sys2Proof.Machine

/-- The latch bytes of the spaces that exist, under LastDriven; none of them otherwise (R345). -/
def savedLatches (s : State) : List Byte :=
  match s.params.openBus with
  | .lastDriven _ => s.busLatch.toList.take s.params.numSpaces
  | .draw => []
  | .fixed _ => []

/-- `save()` (R345): an observation. -/
def takeSnapshot (s : State) : Snapshot where
  elapsed := s.elapsed
  banks := s.banks
  mem := s.mem
  queue := s.queue
  nextId := s.nextId
  nextSeq := s.nextSeq
  busLatch := savedLatches s

/-- A slot of the image fits the slot of the block (R346 item 1). -/
def slotFits (cur img : Option Bank) : Bool :=
  match cur, img with
  | none, none => true
  | some c, some i => i.n == c.n && i.size == c.size && decide (i.sel.toNat < c.n.toNat)
  | _, _ => false

/-- A key names a cell of a configured slot: i < N and off < S (10_state.md R32). -/
def cellExists (banks : Vector (Option Bank) 16) (key : Nat) : Bool :=
  match (banks[keySlot key]?).join with
  | none => false
  | some k => decide (key / 2 ^ 32 % 2 ^ 16 < k.n.toNat) && decide (key % 2 ^ 32 < k.size.toNat)

/-- The conditions of R346 on the image's queue and counters: items 2 to 5. -/
def queueValid (maxEvents : Nat) (q : List Event) (nextId : Word32) (nextSeq : Word64) : Bool :=
  decide (q.length ≤ maxEvents) &&
  decide (q.map (·.id)).Nodup &&
  q.all (fun e => e.id != 0) &&
  q.all (fun e => e.period != some 0) &&
  (nextId == 0 || q.all fun e => decide (e.id.toNat < nextId.toNat)) &&
  q.all (fun e => decide (e.seq.toNat < nextSeq.toNat)) &&
  decide (q.map (·.seq)).Nodup

/-- `valid(img)` (R346). That the image lists cells of its slots, in the canonical form, is part of "each with N
buffers of S cells" (log 17). -/
def snapshotValid (s : State) (img : Snapshot) : Bool :=
  (List.range 16).all (fun b => slotFits (bankAt s b) (img.banks[b]?).join) &&
  Memory.wf s.params.bankInit img.mem &&
  img.mem.all (fun c => cellExists s.banks c.1) &&
  queueValid s.params.maxEvents img.queue img.nextId img.nextSeq &&
  (match s.params.openBus with
    | .lastDriven _ => img.busLatch.length == s.params.numSpaces
    | .draw => true
    | .fixed _ => true)

/-- The latches after a restore (R345): under LastDriven the image's byte for each space it has one for. -/
def restoredLatches (s : State) (img : Snapshot) : Vector Byte 16 :=
  match s.params.openBus with
  | .lastDriven _ => Vector.ofFn fun i => (img.busLatch[i.val]?).getD s.busLatch[i]
  | .draw => s.busLatch
  | .fixed _ => s.busLatch

/-- The assignments of `restore(img)` (R345): for each configured slot the selector and the cells, the queue with
every defer bit 0, the counters, the latches. -/
def restoreState (img : Snapshot) (s : State) : State :=
  { s with
    elapsed := img.elapsed
    banks := Vector.ofFn fun i =>
      match s.banks[i], img.banks[i] with
      | some c, some k => some { c with sel := k.sel }
      | c, _ => c
    mem := img.mem
    queue := img.queue.map fun e => { e with defer := false }
    nextId := img.nextId
    nextSeq := img.nextSeq
    busLatch := restoredLatches s img }

/-- `restore(img)` (R345, R347): stuck in Failed and Faulted (R324, log 21). -/
def restoreSnapshot (img : Snapshot) (s : State) : Result :=
  inPhase [.run] s <|
    if s.ctx ≠ .top ∨ s.pumping = true then raiseFault .context s
    else if snapshotValid s img = false then raiseFault .restore s
    else .next (restoreState img s)

/-- The transition `save` (R345): the image goes to the snapshot host, nothing else changes. -/
def serveSave (s : State) : State :=
  { s with saves := s.saves ++ [takeSnapshot s] }

/-- The host's reset (70_reset_and_hazards.md R360): every piece of state at its reset value. The parameters stay
(R360), the inputs behind the reset stay, and the count of free values moves on, so that no later draw repeats an
earlier one (log 20). -/
def serveReset (rest : List Input) (s : State) : State :=
  { State.resetWith s.params with inbox := rest, draws := s.draws + 1 }

/-- Serve a host operation, `rest` the inputs it leaves at the interface. -/
def serveHost (i : Input) (rest : List Input) (s : State) : Result :=
  match i with
  | .save => .next (serveSave { s with inbox := rest })
  | .restore img => restoreSnapshot img { s with inbox := rest }
  | .reset => .next (serveReset rest s)
  | .header _ => .refused .misframed
  | .operand _ => .refused .misframed

/-- Serve the first waiting input that `serve` accepts, past inputs that it does not; `otherwise` where there is none
(log 25). -/
def servePast (serve : Input → Bool) (otherwise : Result) (s : State) : Result :=
  match takePast serve s.inbox with
  | some (i, rest) => serveHost i rest s
  | none => otherwise

end Sys2Proof.Machine
end

