-- ==== Sys2Proof/Machine/Step.lean ====
section
/-! DEFINITION. One step of the block (00_scope.md R6, 30_encoding.md R100): it takes one input off the command
interface, a command group or a host operation, and runs it. -/

namespace Sys2Proof.Machine

/-- Decode a group and execute it (R100, R115): `cmd_count` counts it after decoding and before executing
(10_state.md R49). An illegal group faults with F_ILLEGAL and is not counted. -/
def runGroup (h : Word32) (ws : List Word64) (s : State) : Result :=
  match decodeGroup h ws with
  | .error _ => raiseIllegal s
  | .ok i => exec i (countCommand s)

/-- One step. In Config and Run the block takes what stands first at the interface: a whole group, or a host operation
(60_exceptions.md R345, 70_reset_and_hazards.md R360). With no input, or a group whose words have not all arrived, it
waits and its state stays (60_exceptions.md R339, log 2); a host operation behind such a half group is served, and a
reset is served behind words that form no group.

In Failed and Faulted no command and no restore is taken (R324, log 5, log 21). The spec does not say what becomes of the
words offered there. They stay at the interface unread, and the first save or reset behind them is served: a save leaves
them, a reset drops them (DESIGN CHOICE, log 25). With neither waiting the block is stuck. -/
def step (s : State) : Host.Outcome State Fault Refusal :=
  if s.halted then servePast isSaveOrReset (.fault .halted) s
  else match s.inbox with
    | [] => .next s
    | .header h :: rest =>
      match takeOperands (operandCount h) rest with
      | .words ws rest' => runGroup h ws { s with inbox := rest' }
      | .waiting => .next s
      | .interrupted => servePast isHostOperation (.refused .misframed) s
      | .misframed => servePast isReset (.refused .misframed) s
    | .operand _ :: _ => servePast isReset (.refused .misframed) s
    | .save :: rest => serveHost .save rest s
    | .restore img :: rest => serveHost (.restore img) rest s
    | .reset :: rest => serveHost .reset rest s

/-- The state with a group's words at the head of the command interface: the group whose bits are the nbits low
bits of w, as spec/opcode_table.json numbers them, with every operand word its header asks for (log 2). -/
def State.withFetchWord (s : State) (nbits w : Nat) : State :=
  { s with inbox := groupInputs (tableGroup nbits w) ++ s.inbox }

end Sys2Proof.Machine
end

