-- ==== Sys2Proof/Safety.lean ====
section
/-! DEFINITION. What the statements mean by a good state: the invariants of 10_state.md R44, with the facts the
registration checks of 40_config.md establish and the facts about the model's own representation; and what they
mean by a well-framed command interface, an accepted command, an error record, the bus and the firings a pump still
has to make. -/

namespace Sys2Proof.Machine

/-- A target the lookup may reach (40_config.md R148), for an entry of the table of direction d whose range holds
`size` addresses. -/
def TargetLegal (s : State) (d : Dir) (tk : TKind) (tid : Word16) (size : Nat) : Prop :=
  match tk with
  | .device => True
  | .bank => ∃ k, bankAt s tid.toNat = some k ∧ k.size.toNat = size
  | .ports => tid.toNat < s.params.numPortUnits
  | .banksel => d = .w ∧ (bankAt s tid.toNat).isSome

/-- R44 item 2, with the bounds of 20_memory.md R66 and the target rule of 40_config.md R148. -/
structure RangeLegal (s : State) (sp : Sel) (d : Dir) (e : RangeEntry) : Prop where
  ordered : e.lo.toNat ≤ e.hi.toNat
  inSpace : e.hi.toNat < 2 ^ spaceAw s sp
  maskInSpace : e.mask.toNat < 2 ^ spaceAw s sp
  fold : ∀ a : Word32, e.lo.toNat ≤ a.toNat → a.toNat ≤ e.hi.toNat → a &&& e.mask = a
  target : TargetLegal s d e.tkind e.tid (e.hi.toNat - e.lo.toNat + 1)

/-- A port entry REG_PORT accepts (40_config.md R153). -/
def PortLegal (s : State) (e : PortEntry) : Prop :=
  e.tkind = .device ∨ (e.tkind = .banksel ∧ e.dir = .w ∧ (bankAt s e.tid.toNat).isSome)

/-- A slot CFG_BANK makes, with R44 item 4. -/
structure BankLegal (s : State) (b : Nat) (k : Bank) : Prop where
  exists_ : b < s.params.numBanks
  buffers : 1 ≤ k.n.toNat
  size_pos : 1 ≤ k.size.toNat
  size_le : k.size.toNat ≤ 2 ^ s.params.awMax
  selected : k.sel.toNat < k.n.toNat

/-- A continuation whose port unit exists (10_state.md R38). -/
def ContLegal (s : State) (k : Cont) : Prop :=
  match k with
  | .portIter u _ _ _ _ _ _ => u.toNat < s.params.numPortUnits
  | .devRead _ => True
  | .devWrite _ _ => True
  | .callback _ => True

/-- The invariant of the block. -/
structure Inv (s : State) : Prop where
  /-- 00_scope.md R7. -/
  params : s.params.Legal
  /-- R44 item 1 and R24: the geometry is legal, and set in phase Run. -/
  geoLegal : ∀ g, s.geo = some g → g.Legal
  geoSet : s.phase = .run → s.geo.isSome
  /-- R44 item 2. -/
  ranges : ∀ sp d, ∀ e ∈ rangeTable s sp d, RangeLegal s sp d e
  /-- R44 item 3: entries that share an address are legal only if the later one is an override. -/
  overrides : ∀ sp d, (rangeTable s sp d).Pairwise fun e e' =>
    ∀ a : Word32, covers (spaceAw s sp) e a = true → covers (spaceAw s sp) e' a = true → e'.ovr = true
  /-- R25: the capacity, and no table for a space that does not exist. -/
  rangeCap : ∀ sp d, (rangeTable s sp d).length ≤ s.params.maxRanges
  rangeUnused : ∀ sp d, s.params.numSpaces ≤ sp.toNat → rangeTable s sp d = []
  /-- R27, R28. -/
  ports : ∀ (u : Nat) es, portList s u = some es → (∀ e ∈ es, PortLegal s e) ∧
    es.length ≤ s.params.maxPortEntries
  /-- R44 item 4. -/
  banks : ∀ (b : Nat) k, bankAt s b = some k → BankLegal s b k
  /-- R44 item 5, R33, R34: the conditions of 60_exceptions.md R346 on the queue and its counters. -/
  queue : queueValid s.params.maxEvents s.queue s.nextId s.nextSeq = true
  /-- The memory's canonical form, and no cell outside the configured buffers (R32). -/
  mem : Memory.wf s.params.bankInit s.mem = true
  memCells : ∀ c ∈ s.mem, cellExists s.banks c.1 = true
  /-- R44 item 7. -/
  ctxTop : s.ctx = .top ↔ s.cont = none
  /-- R41: context Callback is a pump's invocation. -/
  ctxCallback : s.ctx = .callback ↔ ∃ id, s.cont = some (.callback id)
  contLegal : ∀ k, s.cont = some k → ContLegal s k
  /-- An invocation is outstanding only in phase Run, or when a fault ended it (46_invocation.md R303). -/
  ctxPhase : s.ctx ≠ .top → s.phase = .run ∨ s.phase = .faulted
  /-- R38: a pump is in progress exactly while its callback runs, unless a fault stopped it. -/
  pump : s.phase ≠ .faulted → (s.pumping = true ↔ s.ctx = .callback)
  /-- 40_config.md R156: `st.elapsed` is 0 in phase Config. -/
  configTime : s.phase = .config → s.elapsed = 0
  /-- R39, R42: the error registers are set exactly in their phases. -/
  cfgError : s.cfgError.isSome ↔ s.phase = .failed
  fault : s.fault.isSome ↔ s.phase = .faulted

/-- No word of the wrong width stands where the next group needs a word (30_encoding.md R100). -/
def Framed (inbox : List Input) : Prop :=
  match inbox with
  | [] => True
  | .save :: _ => True
  | .restore _ :: _ => True
  | .reset :: _ => True
  | .operand _ :: _ => False
  | .header h :: rest => takeOperands (operandCount h) rest ≠ .misframed

/-- The block right after reset under the parameters p, with inputs waiting. -/
def bootState (p : Params) (inputs : List Input) : State :=
  { State.resetWith p with inbox := inputs }

/-- A state some run reaches: reset under legal parameters, any inputs, any number of steps. -/
def Reachable (s : State) : Prop :=
  ∃ p inputs k, p.Legal ∧ Host.Core.run Sys2Proof.core k (bootState p inputs) = .next s

/-! ## Accepted commands -/

/-- The phases of 46_invocation.md R303, column "phase". -/
def phasesOf (i : Instr) : List Phase :=
  match i.opcode with
  | .cfgGeometry => [.config]
  | .cfgBank => [.config]
  | .cfgPortunit => [.config]
  | .regRange => [.config]
  | .regPort => [.config]
  | .start => [.config]
  | .schedAfter => [.config, .run]
  | .schedPeriodic => [.config, .run]
  | .cancel => [.config, .run]
  | _ => [.run]

/-- The contexts of 46_invocation.md R303, columns Top, Handler and Callback. -/
def contextsOf (i : Instr) : List Ctx :=
  match i.opcode with
  | .read => [.top]
  | .write => [.top]
  | .step => [.top]
  | .hret => [.handler, .callback]
  | _ => [.top, .handler, .callback]

/-- A READ or WRITE passes every check of 41_access.md R170. -/
def AccessOk (s : State) (sp : Sel) (wid : BitVec 2) (a : Word32) : Prop :=
  s.phase = .run ∧ s.ctx = .top ∧ sp.toNat < s.params.numSpaces ∧ wid = 0 ∧ a.toNat < 2 ^ spaceAw s sp

/-! ## Error records -/

/-- The three effects of a fault (60_exceptions.md R326). -/
def afterFault (code : FaultCode) (s : State) : State :=
  { s with fault := some ⟨code, currentIndex s⟩, trace := s.trace ++ [.faultRec code], phase := .faulted }

/-- The three effects of a ConfigError (60_exceptions.md R323). -/
def afterConfigError (kind : CfgKind) (info : List InfoItem) (s : State) : State :=
  { s with
    cfgError := some ⟨kind, currentIndex s, info⟩, trace := s.trace ++ [.cfgErr kind info], phase := .failed }

/-! ## The bus -/

/-- The latches after a completed access of space sp that returned or wrote v (41_access.md R177). -/
def latchAfter (s : State) (sp : Sel) (v : Byte) : Vector Byte 16 :=
  match s.params.openBus with
  | .lastDriven _ => s.busLatch.set sp.toNat v sp.isLt
  | .draw => s.busLatch
  | .fixed _ => s.busLatch

/-- v is `open_bus(sp)` and n the count of draws after it (41_access.md R176). Under Draw the byte is the model's
free value (log 4). -/
def OpenBusByte (s : State) (sp : Sel) (v : Byte) (n : Nat) : Prop :=
  match s.params.openBus with
  | .draw => v = Config.freeByte s.draws ∧ n = s.draws + 1
  | .fixed w => v = w ∧ n = s.draws
  | .lastDriven _ => v = s.busLatch[sp.toNat]'sp.isLt ∧ n = s.draws

/-! ## Save and restore -/

/-- `valid(img)` (60_exceptions.md R346), item by item. -/
structure ValidImage (s : State) (img : Snapshot) : Prop where
  /-- Item 1: the same configured slots, each with the N and S of the block and sel < N. -/
  slots : ∀ b : Nat, ((img.banks[b]?).join = none ↔ bankAt s b = none) ∧
    ∀ k k', bankAt s b = some k → (img.banks[b]?).join = some k' →
      k'.n = k.n ∧ k'.size = k.size ∧ k'.sel.toNat < k.n.toNat
  /-- Item 1: no cell outside the N buffers of S cells, in the canonical form (log 17). -/
  cells : ∀ c ∈ img.mem, cellExists s.banks c.1 = true
  canonical : Memory.wf s.params.bankInit img.mem = true
  /-- Item 2. -/
  capacity : img.queue.length ≤ s.params.maxEvents
  ids : (img.queue.map (·.id)).Nodup ∧ ∀ e ∈ img.queue, e.id ≠ 0
  /-- Item 3. -/
  periods : ∀ e ∈ img.queue, ∀ p, e.period = some p → 1 ≤ p.toNat
  /-- Item 4. -/
  idsBelow : img.nextId ≠ 0 → ∀ e ∈ img.queue, e.id.toNat < img.nextId.toNat
  /-- Item 5. -/
  seqs : (img.queue.map (·.seq)).Nodup ∧ ∀ e ∈ img.queue, e.seq.toNat < img.nextSeq.toNat
  /-- Item 6. -/
  latches : ∀ v0, s.params.openBus = .lastDriven v0 → img.busLatch.length = s.params.numSpaces

/-! ## Port dispatch -/

/-- The entries of a unit's list that a dispatch in direction d at offset o invokes, in order. -/
def invoked (d : Dir) (o : Word32) (es : List PortEntry) : List PortEntry :=
  es.filter fun e => portMatches d o e && e.tkind == .device

/-- What a unit's BANKSEL entries do to the slots in a write dispatch that no select stops: each matching entry, in
order, selects the written byte (42_portdispatch.md R191, 45_bank.md R282). -/
def selectedBanks (o : Word32) (v : Byte) (es : List PortEntry) (s : State) : State :=
  es.foldl (fun t e =>
    if portMatches .w o e && e.tkind == .banksel then
      match bankSelect e.tid.toNat (v.setWidth 16) t with
      | .ok t' => t'
      | .error _ => t
    else t) s

/-- Run commands one after another; the first that gives no next state ends the run. -/
def runCommands : List Instr → State → Result
  | [], s => .next s
  | i :: is, s =>
    match exec i s with
    | .next t => runCommands is t
    | .fault r => .fault r
    | .refused r => .refused r

/-! ## The pump -/

/-- e is due, and of the due events one with the least deadline; under Fifo the one with the least seq among those
(44_scheduler.md R251, R256). -/
def FiresNext (s : State) (e : Event) : Prop :=
  e ∈ s.queue ∧ e.defer = false ∧ e.deadline.toNat ≤ s.elapsed.toNat ∧
  ∀ e' ∈ s.queue, e'.defer = false → e'.deadline.toNat ≤ s.elapsed.toNat →
    e.deadline.toNat < e'.deadline.toNat ∨
      (e.deadline = e'.deadline ∧ (s.params.tieOrder = .fifo → e.seq.toNat ≤ e'.seq.toNat))

/-- The count of free values after a pick: under Any the choice among equal deadlines is one (R256, log 4). -/
def afterTieDraw (s : State) : State :=
  { s with draws := s.draws + if s.params.tieOrder = .any then 1 else 0 }

/-- The lines of `pump_continue()` after the pick of e (44_scheduler.md R251). A one-shot event leaves the queue. A
periodic one keeps its place, with its deadline a period later and a new seq, unless the sum reaches 2^64 or the
sequence counter is used up (in that fault the new deadline already stands, log 10). Then the callback is invoked. -/
def afterFiring (e : Event) (s : State) : State :=
  match e.period with
  | none =>
    { s with
      queue := s.queue.filter fun x => x.id != e.id
      ctx := .callback, cont := some (.callback e.id), trace := s.trace ++ [.invCallback e.tag e.id] }
  | some p =>
    if 2 ^ 64 ≤ e.deadline.toNat + p.toNat then afterFault .timeOverflow s
    else if s.nextSeq = BitVec.allOnes 64 then
      afterFault .idExhausted
        { s with queue := s.queue.map fun x => if x.id = e.id then { e with deadline := e.deadline + p } else x }
    else
      { s with
        queue := s.queue.map fun x =>
          if x.id = e.id then { e with deadline := e.deadline + p, seq := s.nextSeq } else x
        nextSeq := s.nextSeq + 1
        ctx := .callback, cont := some (.callback e.id), trace := s.trace ++ [.invCallback e.tag e.id] }

/-- How often an event can still fire in the pump in progress (44_scheduler.md R252). -/
def eventFirings (now : Nat) (e : Event) : Nat :=
  if e.defer ∨ now < e.deadline.toNat then 0
  else match e.period with
    | none => 1
    | some p => (now - e.deadline.toNat) / p.toNat + 1

/-- How often the pump in progress can still fire. -/
def firingsLeft (s : State) : Nat :=
  (s.queue.map (eventFirings s.elapsed.toNat)).sum

end Sys2Proof.Machine
end

