-- ==== Sys2Proof/Certificates/Slice0/Obligations.lean ====
section
/-! DEFINITION. The statements about raster-clock. A next state is written as an update of the state before: every field
the update does not name is unchanged, the memory with every cell in it. -/

open Sys2Proof Sys2Proof.Machine

/-! ## Encoding -/

/-- Decoding an encoded command gives it back, with every operand at every value its encoding admits (R102, R103, R111,
R115). -/
def Obligations.DecodeOfEncode : Prop :=
  ∀ i : Instr, i.wf = true → decodeGroup (encode i).1 (encode i).2 = .ok i

/-- The only group that decodes to a command is its encoding: no bit of a legal group is ignored (R110, R113). -/
def Obligations.EncodeOfDecode : Prop :=
  ∀ (h : Word32) (ws : List Word64) (i : Instr), decodeGroup h ws = .ok i → encode i = (h, ws) ∧ i.wf = true

/-- R110: the reserved bits of a header (bits 31..28 and the fields the command does not use) and of an operand word
make the group illegal, and it faults with F_ILLEGAL in every phase and context. -/
def Obligations.ReservedBitFaults : Prop :=
  (∀ (c : Opcode) (k : Nat), 28 ≤ k → k < 32 → c.headerMask.getLsbD k = true) ∧
  ∀ (h : Word32) (ws : List Word64) (c : Opcode), Opcode.ofByte (hOp h) = some c → ws.length = c.len →
    ((∃ k, 8 ≤ k ∧ c.headerMask.getLsbD k = true ∧ h.getLsbD k = true) ∨
      ∃ (j : Nat) (w bits : Word64) (k : Nat), ws[j]? = some w ∧ c.operandBits[j]? = some bits ∧ w.getLsbD k = true ∧
        bits.getLsbD k = false) →
    ∀ s : State, runGroup h ws s =
      .next { s with
        fault := some ⟨.illegal, s.cmdCount⟩, trace := s.trace ++ [.faultRec .illegal], phase := .faulted }

/-- Words written out from the encoding tables decode to the commands they stand for (R118, 95_test_vectors.md). -/
def Obligations.SampleWordsDecode : Prop :=
  decodeGroup 0x04003004 [0x000083FF00008000, 0x0000000000008FFF] =
    .ok (.regRange 0 .rw false .bank 0x8000 0x83FF 0x8FFF 0) ∧
  decodeGroup 0x00000001 [0x000000060000000A, 0x0000000A00000008, 0x0000000600000004] =
    .ok (.cfgGeometry 10 6 8 10 4 6) ∧
  decodeGroup 0x00000010 [0x0000000000009200] = .ok (.read 0 0 0x9200) ∧
  decodeGroup 0x00770011 [0x000000000000F3FF] = .ok (.write 0 0 0x77 0xF3FF) ∧
  decodeGroup 0x00068026 [0] = .ok (.rcLinebit 6 true 0) ∧
  decodeGroup 0x00000030 [240, 0xC01] = .ok (.schedAfter 240 0xC01) ∧
  decodeGroup 0x00000340 [1] = .ok (.bankSelect 3 1) ∧
  decodeGroup 0x00FF007F [] = .ok (.hret 0xFF) ∧
  decodeGroup 0x00000112 [5] = .error .reservedHeader ∧
  decodeGroup 0x00008021 [5] = .error .nowOperand

/-! ## The step -/

/-- R100, R49: when the words at the command interface decode to i, the step takes them, counts the command and is exec
of i. -/
def Obligations.StepRunsDecodedGroup : Prop :=
  ∀ (s : State) (h : Word32) (ws : List Word64) (rest : List Input) (i : Instr),
    s.inbox = groupInputs (h, ws) ++ rest → decodeGroup h ws = .ok i → s.halted = false →
    step s = exec i (countCommand { s with inbox := rest }) ∧
    (s.cmdCount ≠ BitVec.allOnes 64 →
      countCommand { s with inbox := rest } = { s with inbox := rest, cmdCount := s.cmdCount + 1 })

/-- R113, R49: a group that decodes to nothing is taken, is not counted, and faults with F_ILLEGAL and the index
`cmd_count`; after an unassigned OP only the header word is taken. -/
def Obligations.StepFaultsOnIllegalGroup : Prop :=
  ∀ (s : State) (h : Word32) (ws : List Word64) (rest : List Input) (e : DecodeError),
    s.inbox = groupInputs (h, ws) ++ rest → ws.length = operandCount h → decodeGroup h ws = .error e →
    s.halted = false →
    step s = .next { s with
      inbox := rest
      fault := some ⟨.illegal, s.cmdCount⟩, trace := s.trace ++ [.faultRec .illegal], phase := .faulted }

/-- R324, R345, R347: in Failed and Faulted no command and no restore has a transition, and the block is stuck; the only
transitions are the save observation and reset. That save and reset are still answered there is log 5's reading, that a
restore is stuck is log 21's, and what becomes of words offered there (a save leaves them, a reset drops them) is log 25's
choice. -/
def Obligations.TerminalPhases : Prop :=
  ∀ s : State, (s.phase = .failed ∨ s.phase = .faulted) →
    (∀ i, exec i s = .fault .halted) ∧
    (∀ img, restoreSnapshot img s = .fault .halted) ∧
    ((∀ i ∈ s.inbox, i ≠ .save ∧ i ≠ .reset) → step s = .fault .halted) ∧
    ∀ pre rest : List Input, (∀ i ∈ pre, i ≠ .save ∧ i ≠ .reset) →
      (s.inbox = pre ++ .save :: rest →
        step s = .next { s with inbox := pre ++ rest, saves := s.saves ++ [takeSnapshot s] }) ∧
      (s.inbox = pre ++ .reset :: rest →
        step s = .next { State.resetWith s.params with inbox := rest, draws := s.draws + 1 })

/-- R303: each command is accepted exactly in its phases and contexts. Phase is checked first; a command the context
does not accept faults with F_CONTEXT; an accepted one raises neither fault. -/
def Obligations.AcceptedCommands : Prop :=
  ∀ (i : Instr) (s : State), s.phase = .config ∨ s.phase = .run →
    (s.phase ∉ phasesOf i → exec i s = .next (afterFault .phase s)) ∧
    (s.phase ∈ phasesOf i → s.ctx ∉ contextsOf i → exec i s = .next (afterFault .context s)) ∧
    (s.phase ∈ phasesOf i → s.ctx ∈ contextsOf i → s.fault = none →
      ∀ t f, exec i s = .next t → t.fault = some f → f.code ≠ .phase ∧ f.code ≠ .context)

/-- R326: a command that faults sets the fault register to the code and its own index, appends the FaultRec last, moves
to Faulted and gives no response. -/
def Obligations.FaultRecord : Prop :=
  ∀ (i : Instr) (s t : State), s.halted = false → s.cmdCount ≠ 0 → exec i s = .next t → t.phase = .faulted →
    ∃ code, t.fault = some ⟨code, s.cmdCount - 1⟩ ∧ t.trace = s.trace ++ [.faultRec code] ∧
      t.responses = s.responses ∧ t.cfgError = s.cfgError

/-- R323: a command that fails the configuration has no effect but the error register, the CfgErr record and the phase;
it is a registration command in phase Config. -/
def Obligations.ConfigErrorRecord : Prop :=
  ∀ (i : Instr) (s t : State), s.halted = false → s.cmdCount ≠ 0 → exec i s = .next t → t.phase = .failed →
    s.phase = .config ∧
    i.opcode ∈ [.cfgGeometry, .cfgBank, .cfgPortunit, .regRange, .regPort, .start] ∧
    ∃ kind info, t = { s with
      cfgError := some ⟨kind, s.cmdCount - 1, info⟩, trace := s.trace ++ [.cfgErr kind info], phase := .failed }

/-! ## Configuration -/

/-- R142: a legal CFG_GEOMETRY in phase Config sets the geometry, whatever it was, so the last of two wins. -/
def Obligations.CfgGeometryReplaces : Prop :=
  ∀ (s : State) (cpl lpf hbs hbe vbs vbe : Word32), s.phase = .config →
    1 ≤ cpl.toNat → 1 ≤ lpf.toNat → hbs.toNat ≤ cpl.toNat → hbe.toNat ≤ cpl.toNat → vbs.toNat ≤ lpf.toNat →
    vbe.toNat ≤ lpf.toNat →
    exec (.cfgGeometry cpl lpf hbs hbe vbs vbe) s = .next { s with geo := some ⟨cpl, lpf, hbs, hbe, vbs, vbe⟩ } ∧
    ∀ i : Instr, i.opcode = .cfgGeometry → ∀ t, exec i s = .next t → t.phase = .config →
      exec (.cfgGeometry cpl lpf hbs hbe vbs vbe) t =
        .next { s with geo := some ⟨cpl, lpf, hbs, hbe, vbs, vbe⟩ }

/-- R143, R144, R32: CFG_BANK on an unconfigured slot makes N buffers of S cells with selector 0 and every cell at its
initial content; every other cell reads as before. -/
def Obligations.CfgBankMakesSlot : Prop :=
  ∀ (s : State) (b : Sel) (n : Word16) (size : Word32), s.phase = .config → b.toNat < s.params.numBanks →
    bankAt s b.toNat = none → n ≠ 0 → size ≠ 0 → size.toNat ≤ 2 ^ s.params.awMax →
    ∃ m, exec (.cfgBank b n size) s =
        .next { s with banks := s.banks.set b.toNat (some ⟨n, size, 0⟩) b.isLt, mem := m } ∧
      (∀ (b' : Nat) (i : Word16) (off : Word32), Memory.read s.params.bankInit m (cellKey b' i off) =
        if b' = b.toNat then initialCell s.params.bankInit (cellKey b' i off) else s.cell b' i off) ∧
      (Memory.wf s.params.bankInit s.mem = true → Memory.wf s.params.bankInit m = true)

/-- The checks of CFG_GEOMETRY, CFG_BANK, CFG_PORTUNIT, REG_PORT and START in the order of R329, each with the info of
R141, R143, R145, R153 and R156. -/
def Obligations.RegistrationChecks : Prop :=
  ∀ s : State, s.phase = .config →
    (∀ cpl lpf hbs hbe vbs vbe : Word32,
      ¬(1 ≤ cpl.toNat ∧ 1 ≤ lpf.toNat ∧ hbs.toNat ≤ cpl.toNat ∧ hbe.toNat ≤ cpl.toNat ∧ vbs.toNat ≤ lpf.toNat ∧
        vbe.toNat ≤ lpf.toNat) →
      exec (.cfgGeometry cpl lpf hbs hbe vbs vbe) s = .next (afterConfigError .badGeometry
        [.word (lpf ++ cpl), .word (hbe ++ hbs), .word (vbe ++ vbs)] s)) ∧
    (∀ (b : Sel) (n : Word16) (size : Word32),
      (s.params.numBanks ≤ b.toNat →
        exec (.cfgBank b n size) s = .next (afterConfigError .badSelector [.word (b.setWidth 64)] s)) ∧
      (b.toNat < s.params.numBanks →
        (bankAt s b.toNat ≠ none ∨ n = 0 ∨ size = 0 ∨ 2 ^ s.params.awMax < size.toNat) →
        exec (.cfgBank b n size) s = .next (afterConfigError .badBank
          [.word (b.setWidth 64), .word (n.setWidth 64), .word (size.setWidth 64)] s))) ∧
    (∀ (u : Sel) (p : Policy), s.params.numPortUnits ≤ u.toNat →
      exec (.cfgPortunit u p) s = .next (afterConfigError .badSelector [.word (u.setWidth 64)] s)) ∧
    (∀ (u : Sel) (dm : DirSet) (tk : TKind) (bitmask : Word32) (tid : Word16), dm ≠ .rw →
      (s.params.numPortUnits ≤ u.toNat →
        exec (.regPort u dm tk bitmask tid) s = .next (afterConfigError .badSelector [.word (u.setWidth 64)] s)) ∧
      (u.toNat < s.params.numPortUnits →
        (¬(tk = .device ∨ (tk = .banksel ∧ dm = .w ∧ tid.toNat < s.params.numBanks ∧ bankAt s tid.toNat ≠ none)) →
          exec (.regPort u dm tk bitmask tid) s = .next (afterConfigError .badTarget
            [.word (tk.bits.setWidth 64), .word (tid.setWidth 64)] s)) ∧
        ((tk = .device ∨ (tk = .banksel ∧ dm = .w ∧ tid.toNat < s.params.numBanks ∧ bankAt s tid.toNat ≠ none)) →
          (s.ports[u.toNat]'u.isLt).length = s.params.maxPortEntries →
          exec (.regPort u dm tk bitmask tid) s = .next (afterConfigError .tableFull [.word (u.setWidth 64)] s)))) ∧
    (s.geo = none → exec .start s = .next (afterConfigError .missingGeometry [] s))

/-- R145, R153, R156: CFG_PORTUNIT sets the unit's policy, REG_PORT appends one entry to the unit's list, and START
enters phase Run and changes nothing else. -/
def Obligations.PortSetupAndStart : Prop :=
  ∀ s : State, s.phase = .config →
    (∀ (u : Sel) (p : Policy), u.toNat < s.params.numPortUnits →
      exec (.cfgPortunit u p) s = .next { s with policy := s.policy.set u.toNat p u.isLt }) ∧
    (∀ (u : Sel) (tk : TKind) (bitmask : Word32) (tid : Word16) (d : Dir), u.toNat < s.params.numPortUnits →
      (s.ports[u.toNat]'u.isLt).length ≠ s.params.maxPortEntries →
      (tk = .device ∨ (tk = .banksel ∧ d = .w ∧ tid.toNat < s.params.numBanks ∧ bankAt s tid.toNat ≠ none)) →
      exec (.regPort u (if d = .r then .r else .w) tk bitmask tid) s =
        .next { s with ports := s.ports.set u.toNat (s.ports[u.toNat]'u.isLt ++ [⟨bitmask, d, tk, tid⟩]) u.isLt }) ∧
    (∀ g, s.geo = some g → exec .start s = .next { s with phase := .run })

/-- R147, R149, R150: a REG_RANGE that passes every check is appended, with the bits of its mask at or above AW[s]
dropped, to the table of each of its directions, and to no other table. Without OVR the check is that its decoded set
shares no address with an earlier entry's. -/
def Obligations.RegRangeAppends : Prop :=
  ∀ (s : State) (sp : Sel) (dm : DirSet) (ovr : Bool) (tk : TKind) (lo hi mask : Word32) (tid : Word16),
    s.phase = .config → sp.toNat < s.params.numSpaces →
    lo.toNat ≤ hi.toNat → hi.toNat < 2 ^ spaceAw s sp →
    (∀ a : Word32, lo.toNat ≤ a.toNat → a.toNat ≤ hi.toNat → a &&& mask = a) →
    (tk = .device ∨
      (tk = .bank ∧ tid.toNat < s.params.numBanks ∧
        ∃ k, bankAt s tid.toNat = some k ∧ k.size.toNat = hi.toNat - lo.toNat + 1) ∨
      (tk = .ports ∧ tid.toNat < s.params.numPortUnits) ∨
      (tk = .banksel ∧ tid.toNat < s.params.numBanks ∧ bankAt s tid.toNat ≠ none ∧ dm = .w)) →
    (∀ d ∈ dm.dirs, (rangeTable s sp d).length ≠ s.params.maxRanges) →
    (ovr = false → ∀ d ∈ dm.dirs, ∀ e ∈ rangeTable s sp d, ∀ a : Word32, covers (spaceAw s sp) e a = true →
      covers (spaceAw s sp) ⟨lo, hi, mask &&& BitVec.ofNat 32 (2 ^ spaceAw s sp - 1), tk, tid, ovr⟩ a = false) →
    ∃ t, exec (.regRange sp dm ovr tk lo hi mask tid) s = .next t ∧ t = { s with ranges := t.ranges } ∧
      ∀ sp' d, rangeTable t sp' d =
        if sp' = sp ∧ d ∈ dm.dirs then
          rangeTable s sp d ++ [⟨lo, hi, mask &&& BitVec.ofNat 32 (2 ^ spaceAw s sp - 1), tk, tid, ovr⟩]
        else rangeTable s sp' d

/-- The checks of REG_RANGE before the overlap check, in the order of R329 and with the info of R147 (for MalformedRange,
MalformedMirrorMask and TableFull as log 11 and log 12 read it). -/
def Obligations.RegRangeChecks : Prop :=
  ∀ (s : State) (sp : Sel) (dm : DirSet) (ovr : Bool) (tk : TKind) (lo hi mask : Word32) (tid : Word16),
    s.phase = .config →
    (s.params.numSpaces ≤ sp.toNat →
      exec (.regRange sp dm ovr tk lo hi mask tid) s =
        .next (afterConfigError .badSelector [.word (sp.setWidth 64)] s)) ∧
    (sp.toNat < s.params.numSpaces →
      ((hi.toNat < lo.toNat ∨ 2 ^ spaceAw s sp ≤ hi.toNat) →
        exec (.regRange sp dm ovr tk lo hi mask tid) s = .next (afterConfigError .malformedRange
          [.word (sp.setWidth 64), .word (lo.setWidth 64), .word (hi.setWidth 64)] s)) ∧
      (lo.toNat ≤ hi.toNat → hi.toNat < 2 ^ spaceAw s sp →
        ((∃ a : Word32, lo.toNat ≤ a.toNat ∧ a.toNat ≤ hi.toNat ∧ a &&& (mask &&& lowMask (spaceAw s sp)) ≠ a) →
          exec (.regRange sp dm ovr tk lo hi mask tid) s = .next (afterConfigError .malformedMirrorMask
            [.word (sp.setWidth 64), .word (lo.setWidth 64), .word (hi.setWidth 64),
             .word ((mask &&& lowMask (spaceAw s sp)).setWidth 64)] s)) ∧
        ((∀ a : Word32, lo.toNat ≤ a.toNat → a.toNat ≤ hi.toNat → a &&& (mask &&& lowMask (spaceAw s sp)) = a) →
          (targetOk s tk tid dm (hi.toNat - lo.toNat + 1) = false →
            exec (.regRange sp dm ovr tk lo hi mask tid) s = .next (afterConfigError .badTarget
              [.word (tk.bits.setWidth 64), .word (tid.setWidth 64)] s)) ∧
          (targetOk s tk tid dm (hi.toNat - lo.toNat + 1) = true →
            ∀ d ∈ dm.dirs, (rangeTable s sp d).length = s.params.maxRanges →
              (d = .w → .r ∈ dm.dirs → (rangeTable s sp .r).length ≠ s.params.maxRanges) →
              exec (.regRange sp dm ovr tk lo hi mask tid) s = .next (afterConfigError .tableFull
                [.word (sp.setWidth 64), .dir d] s)))))

/-- R147, R149: a REG_RANGE without OVR that passes the earlier checks and shares an address with an entry of one of its
tables fails with OverlappingRange; the record names the first such entry, the R table before the W table and each from
index 0, whether or not that entry is an override. -/
def Obligations.RegRangeOverlap : Prop :=
  ∀ (s : State) (sp : Sel) (dm : DirSet) (tk : TKind) (lo hi mask : Word32) (tid : Word16) (d : Dir) (k : Nat)
    (e new : RangeEntry) (a : Word32),
    s.phase = .config → sp.toNat < s.params.numSpaces → lo.toNat ≤ hi.toNat → hi.toNat < 2 ^ spaceAw s sp →
    new = ⟨lo, hi, mask &&& lowMask (spaceAw s sp), tk, tid, false⟩ →
    (∀ x : Word32, lo.toNat ≤ x.toNat → x.toNat ≤ hi.toNat → x &&& new.mask = x) →
    targetOk s tk tid dm (hi.toNat - lo.toNat + 1) = true →
    (∀ d' ∈ dm.dirs, (rangeTable s sp d').length ≠ s.params.maxRanges) →
    d ∈ dm.dirs → (rangeTable s sp d)[k]? = some e →
    covers (spaceAw s sp) e a = true → covers (spaceAw s sp) new a = true →
    (∀ j e' x, j < k → (rangeTable s sp d)[j]? = some e' → covers (spaceAw s sp) e' x = true →
      covers (spaceAw s sp) new x = false) →
    (d = .w → .r ∈ dm.dirs → ∀ e' ∈ rangeTable s sp .r, ∀ x, covers (spaceAw s sp) e' x = true →
      covers (spaceAw s sp) new x = false) →
    exec (.regRange sp dm false tk lo hi mask tid) s = .next (afterConfigError .overlappingRange
      [.word (lo.setWidth 64), .word (hi.setWidth 64), .word (BitVec.ofNat 64 k), .word (e.lo.setWidth 64),
       .word (e.hi.setWidth 64)] s)

/-! ## The address map -/

/-- R67: the mask check holds exactly when every address of the range is its own canonical address, that is, when no
address of the range has a 1 where the mask has a 0. -/
def Obligations.MaskOkIff : Prop :=
  ∀ lo hi mask : Word32,
    (maskOk lo hi mask = true ↔ ∀ a : Word32, lo.toNat ≤ a.toNat → a.toNat ≤ hi.toNat → a &&& mask = a) ∧
    (maskOk lo hi mask = true ↔ ∀ (a : Word32) (k : Nat), lo.toNat ≤ a.toNat → a.toNat ≤ hi.toNat →
      a.getLsbD k = true → mask.getLsbD k = true)

/-- R68, R63: the overlap check holds exactly when some address lies in both decoded sets. -/
def Obligations.OverlapsIff : Prop :=
  ∀ (aw : Nat) (e1 e2 : RangeEntry),
    overlaps aw e1 e2 = true ↔
      ∃ a : Word32, a.toNat < 2 ^ aw ∧
        (e1.lo.toNat ≤ (a &&& e1.mask).toNat ∧ (a &&& e1.mask).toNat ≤ e1.hi.toNat) ∧
        (e2.lo.toNat ≤ (a &&& e2.mask).toNat ∧ (a &&& e2.mask).toNat ≤ e2.hi.toNat)

/-- R65: the lookup answers the entry with the highest index whose decoded set holds the address, and none when no
decoded set does; where the invariant holds and no entry of the table is an override, at most one entry matches. -/
def Obligations.LookupLatestWins : Prop :=
  ∀ (s : State) (sp : Sel) (d : Dir) (a : Word32),
    (∀ e, lookup s sp d a = some e ↔ ∃ k : Nat, (rangeTable s sp d)[k]? = some e ∧ covers (spaceAw s sp) e a = true ∧
      ∀ (j : Nat) (e' : RangeEntry), k < j → (rangeTable s sp d)[j]? = some e' → covers (spaceAw s sp) e' a = false) ∧
    (lookup s sp d a = none ↔ ∀ e ∈ rangeTable s sp d, covers (spaceAw s sp) e a = false) ∧
    (Inv s → (∀ e ∈ rangeTable s sp d, e.ovr = false) → ∀ (j k : Nat) (e e' : RangeEntry), (rangeTable s sp d)[j]? = some e →
      (rangeTable s sp d)[k]? = some e' → covers (spaceAw s sp) e a = true → covers (spaceAw s sp) e' a = true →
      j = k)

/-! ## READ and WRITE -/

/-- R170: the five checks common to READ and WRITE, in their order. -/
def Obligations.AccessChecks : Prop :=
  ∀ (s : State) (sp : Sel) (wid : BitVec 2) (v : Byte) (a : Word32) (i : Instr),
    (i = .read sp wid a ∨ i = .write sp wid v a) →
    (s.phase = .config → exec i s = .next (afterFault .phase s)) ∧
    (s.phase = .run →
      (s.ctx ≠ .top → exec i s = .next (afterFault .context s)) ∧
      (s.ctx = .top →
        (s.params.numSpaces ≤ sp.toNat → exec i s = .next (afterFault .selector s)) ∧
        (sp.toNat < s.params.numSpaces →
          (wid ≠ 0 → exec i s = .next (afterFault .width s)) ∧
          (wid = 0 → 2 ^ spaceAw s sp ≤ a.toNat → exec i s = .next (afterFault .address s)))))

/-- R171, R283: a READ that a BANK range answers responds the active buffer's cell at the offset of R64, or faults with
F_UNWRITTEN when nothing wrote it; the slot is configured and the offset below S. -/
def Obligations.ReadBankCell : Prop :=
  ∀ (s : State) (sp : Sel) (a : Word32) (e : RangeEntry), Inv s → AccessOk s sp 0 a →
    lookup s sp .r a = some e → e.tkind = .bank →
    ∃ k, bankAt s e.tid.toNat = some k ∧
      (rangeOffset a e).toNat = (a &&& e.mask).toNat - e.lo.toNat ∧ (rangeOffset a e).toNat < k.size.toNat ∧
      (∀ v, s.cell e.tid.toNat k.sel (rangeOffset a e) = some v →
        exec (.read sp 0 a) s =
          .next { s with responses := s.responses ++ [v.setWidth 64], busLatch := latchAfter s sp v }) ∧
      (s.cell e.tid.toNat k.sel (rangeOffset a e) = none →
        exec (.read sp 0 a) s = .next (afterFault .unwritten s))

/-- R173, R284: a WRITE that a BANK range answers writes the active buffer's cell at the offset of R64, which is then no
longer Unwritten; every other cell reads as before, those of the other buffers among them. -/
def Obligations.WriteBankCell : Prop :=
  ∀ (s : State) (sp : Sel) (v : Byte) (a : Word32) (e : RangeEntry), Inv s → AccessOk s sp 0 a →
    lookup s sp .w a = some e → e.tkind = .bank →
    ∃ k t, bankAt s e.tid.toNat = some k ∧
      (rangeOffset a e).toNat = (a &&& e.mask).toNat - e.lo.toNat ∧ (rangeOffset a e).toNat < k.size.toNat ∧
      exec (.write sp 0 v a) s = .next t ∧ t = { s with mem := t.mem, busLatch := latchAfter s sp v } ∧
      t.cell e.tid.toNat k.sel (rangeOffset a e) = some v ∧
      ∀ (b : Nat) (i : Word16) (off : Word32), (b, i, off) ≠ (e.tid.toNat, k.sel, rangeOffset a e) →
        t.cell b i off = s.cell b i off

/-- R172, R174, R62: a byte written through one address is read back through every address whose range reaches the same
slot at the same offset, mirrors among them. -/
def Obligations.ReadAfterWriteThroughMirror : Prop :=
  ∀ (s : State) (spW spR : Sel) (v : Byte) (aW aR : Word32) (eW eR : RangeEntry), Inv s → AccessOk s spW 0 aW →
    AccessOk s spR 0 aR → lookup s spW .w aW = some eW → eW.tkind = .bank → lookup s spR .r aR = some eR →
    eR.tkind = .bank → eR.tid = eW.tid → rangeOffset aR eR = rangeOffset aW eW →
    ∃ t u, exec (.write spW 0 v aW) s = .next t ∧ exec (.read spR 0 aR) t = .next u ∧
      u.responses = s.responses ++ [v.setWidth 64] ∧ u.mem = t.mem

/-- R171, R173, R301: an access that a DEVICE range answers appends the invocation record with the handler id and the
offset, saves its continuation and waits in context Handler, with no response yet. -/
def Obligations.DeviceAccessInvokes : Prop :=
  ∀ (s : State) (sp : Sel) (v : Byte) (a : Word32) (e : RangeEntry), AccessOk s sp 0 a → e.tkind = .device →
    (lookup s sp .r a = some e →
      exec (.read sp 0 a) s = .next { s with
        trace := s.trace ++ [.invRead e.tid (rangeOffset a e)], cont := some (.devRead sp), ctx := .handler }) ∧
    (lookup s sp .w a = some e →
      exec (.write sp 0 v a) s = .next { s with
        trace := s.trace ++ [.invWrite e.tid (rangeOffset a e) v], cont := some (.devWrite sp v),
        ctx := .handler })

/-- R175, R176, R177: an unmapped READ responds the open-bus value and an unmapped WRITE is dropped; each appends its
Unmapped record and, under LastDriven, sets the space's latch. (Under Draw the byte is the free value of log 4.) -/
def Obligations.UnmappedAccess : Prop :=
  ∀ (s : State) (sp : Sel) (v : Byte) (a : Word32), AccessOk s sp 0 a →
    (lookup s sp .r a = none → ∃ ob n, OpenBusByte s sp ob n ∧
      exec (.read sp 0 a) s = .next { s with
        trace := s.trace ++ [.unmapped sp .r a], responses := s.responses ++ [ob.setWidth 64],
        busLatch := latchAfter s sp ob, draws := n }) ∧
    (lookup s sp .w a = none →
      exec (.write sp 0 v a) s = .next { s with
        trace := s.trace ++ [.unmapped sp .w a], busLatch := latchAfter s sp v })

/-! ## Port dispatch -/

/-- R191, R302: a WRITE to a PORTS range, with one HRET for each matching DEVICE entry, invokes every matching DEVICE
entry once and in registration order, selects for every matching BANKSEL entry in its turn, and then completes; under
BANK_OOR = Fault where the byte is below the N of every matching BANKSEL entry's slot, and under Modulo and Ignore
whatever the byte. -/
def Obligations.WriteDispatchInvokesAll : Prop :=
  ∀ (s : State) (sp : Sel) (v : Byte) (a : Word32) (e : RangeEntry) (es : List PortEntry) (ds : List Byte),
    Inv s → AccessOk s sp 0 a → lookup s sp .w a = some e → e.tkind = .ports →
    portList s e.tid.toNat = some es → ds.length = (invoked .w (rangeOffset a e) es).length →
    (s.params.bankOor = .fault → ∀ p ∈ es, portMatches .w (rangeOffset a e) p = true → p.tkind = .banksel →
      ∀ k, bankAt s p.tid.toNat = some k → v.toNat < k.n.toNat) →
    runCommands (.write sp 0 v a :: ds.map .hret) s = .next { s with
      trace := s.trace ++ (invoked .w (rangeOffset a e) es).map (fun p => .invWrite p.tid (rangeOffset a e) v)
      banks := (selectedBanks (rangeOffset a e) v es s).banks
      busLatch := latchAfter s sp v }

/-- R194, R195, R302: a READ of a PORTS range, answered by one HRET for each matching Read entry, invokes every one of
them in registration order under both policies, and responds the byte of the last under Last and of the first under
First. -/
def Obligations.ReadDispatchInvokesAll : Prop :=
  ∀ (s : State) (sp : Sel) (a : Word32) (e : RangeEntry) (es : List PortEntry) (d : Byte) (ds : List Byte),
    Inv s → AccessOk s sp 0 a → lookup s sp .r a = some e → e.tkind = .ports → portList s e.tid.toNat = some es →
    (d :: ds).length = (invoked .r (rangeOffset a e) es).length →
    ∀ v, v = (if unitPolicy s e.tid.toNat = .last then ds.getLastD d else d) →
    runCommands (.read sp 0 a :: (d :: ds).map .hret) s = .next { s with
      trace := s.trace ++ (invoked .r (rangeOffset a e) es).map (fun p => .invRead p.tid (rangeOffset a e))
      responses := s.responses ++ [v.setWidth 64]
      busLatch := latchAfter s sp v }

/-- R191, R282, R330: under BANK_OOR = Fault a matching BANKSEL entry with the byte at or above N ends the dispatch with
F_BANK_INDEX, in the WRITE or in the HRET that resumed it. The invocations and selects of the entries before it stand, no
later entry is reached, and the write does not complete. -/
def Obligations.WriteDispatchFaultStops : Prop :=
  ∀ (s : State) (sp : Sel) (v : Byte) (a : Word32) (e : RangeEntry) (pre post : List PortEntry) (p : PortEntry)
    (k : Bank) (ds : List Byte),
    Inv s → AccessOk s sp 0 a → s.params.bankOor = .fault → lookup s sp .w a = some e → e.tkind = .ports →
    portList s e.tid.toNat = some (pre ++ p :: post) →
    (∀ q ∈ pre, portMatches .w (rangeOffset a e) q = true → q.tkind = .banksel →
      ∀ k', bankAt s q.tid.toNat = some k' → v.toNat < k'.n.toNat) →
    ds.length = (invoked .w (rangeOffset a e) pre).length →
    portMatches .w (rangeOffset a e) p = true → p.tkind = .banksel → bankAt s p.tid.toNat = some k →
    k.n.toNat ≤ v.toNat →
    runCommands (.write sp 0 v a :: ds.map .hret) s = .next (afterFault .bankIndex { s with
      trace := s.trace ++ (invoked .w (rangeOffset a e) pre).map (fun q => .invWrite q.tid (rangeOffset a e) v)
      banks := (selectedBanks (rangeOffset a e) v pre s).banks })

/-- R193, R196, R197: no entry matches offset 0; when no entry matches, a write to the port unit is dropped and a read
responds the open-bus value of its space, with no Unmapped record; either sets the space's latch under LastDriven (R176,
R177). (Under Draw the byte and the count of draws are the model's choice, log 4.) -/
def Obligations.PortAccessMatchingNothing : Prop :=
  (∀ (d : Dir) (p : PortEntry), portMatches d 0 p = false) ∧
  ∀ (s : State) (sp : Sel) (v : Byte) (a : Word32) (e : RangeEntry) (es : List PortEntry),
    AccessOk s sp 0 a → e.tkind = .ports → portList s e.tid.toNat = some es →
    (lookup s sp .w a = some e → (∀ p ∈ es, portMatches .w (rangeOffset a e) p = false) →
      exec (.write sp 0 v a) s = .next { s with busLatch := latchAfter s sp v }) ∧
    (lookup s sp .r a = some e → (∀ p ∈ es, portMatches .r (rangeOffset a e) p = false) →
      ∃ ob n, OpenBusByte s sp ob n ∧ exec (.read sp 0 a) s = .next { s with
        responses := s.responses ++ [ob.setWidth 64], busLatch := latchAfter s sp ob, draws := n })

/-! ## The raster decoder -/

/-- R220 to R227, R213: in phase Run and in every context each query responds its function of `st.elapsed` (N = 1) or of
its time word (N = 0), and changes nothing but the response channel. Here win x ws we is in_window(x, ws, we) as R213
writes it. -/
def Obligations.RasterQueries : Prop :=
  ∀ (s : State) (g : Geometry) (now : Bool) (t : Word64) (n : Byte) (T : Nat) (win : Nat → Nat → Nat → Bool),
    s.phase = .run → s.geo = some g → T = (if now then s.elapsed.toNat else t.toNat) →
    (∀ x ws we, win x ws we = true ↔ if ws ≤ we then ws ≤ x ∧ x < we else x ≥ ws ∨ x < we) →
    exec .rcNow s = .next { s with responses := s.responses ++ [s.elapsed] } ∧
    exec (.rcScanline now t) s =
      .next { s with responses := s.responses ++ [BitVec.ofNat 64 (T / g.cpl.toNat % g.lpf.toNat)] } ∧
    exec (.rcHpos now t) s = .next { s with responses := s.responses ++ [BitVec.ofNat 64 (T % g.cpl.toNat)] } ∧
    exec (.rcHblank now t) s = .next { s with
      responses := s.responses ++ [if win (T % g.cpl.toNat) g.hbs.toNat g.hbe.toNat then 1 else 0] } ∧
    exec (.rcVblank now t) s = .next { s with
      responses := s.responses ++
        [if win (T / g.cpl.toNat % g.lpf.toNat) g.vbs.toNat g.vbe.toNat then 1 else 0] } ∧
    exec (.rcCblank now t) s = .next { s with
      responses := s.responses ++
        [if win (T / g.cpl.toNat % g.lpf.toNat) g.vbs.toNat g.vbe.toNat ∧
            win (T % g.cpl.toNat) g.hbs.toNat g.hbe.toNat = false then 1 else 0] } ∧
    exec (.rcLinebit n now t) s = .next { s with
      responses := s.responses ++ [BitVec.ofNat 64 (T / g.cpl.toNat % g.lpf.toNat / 2 ^ n.toNat % 2)] }

/-- R211, R212: under a legal geometry the scanline is below LPF and the position below CPL, together they are the time
within the frame, and a frame period F = CPL * LPF < 2^64 brings every raster signal back. -/
def Obligations.RasterFramePeriod : Prop :=
  ∀ (g : Geometry) (t n : Nat), g.Legal →
    scanlineAt g t < g.lpf.toNat ∧ hposAt g t < g.cpl.toNat ∧
    scanlineAt g t * g.cpl.toNat + hposAt g t = t % framePeriod g ∧ framePeriod g < 2 ^ 64 ∧
    scanlineAt g (t + framePeriod g) = scanlineAt g t ∧ hposAt g (t + framePeriod g) = hposAt g t ∧
    isHblank g (t + framePeriod g) = isHblank g t ∧ isVblank g (t + framePeriod g) = isVblank g t ∧
    isCblank g (t + framePeriod g) = isCblank g t ∧ lineBit g n (t + framePeriod g) = lineBit g n t

/-- R218, R213: under every legal geometry whose window has two different boundaries on the cyclic line or frame, each
blank turns on exactly at its start and off exactly at its end, the boundaries taken mod CPL or mod LPF as R218's
positions are mod F; so HBE = CPL and VBE = LPF turn off where the next line or frame begins. Where the two boundaries
coincide the blank never changes: a window with ws = we is empty (R213, R223, R224), and so is one that starts at the end
of the line or frame and ends at 0; one from 0 to the end is always on. -/
def Obligations.BlankTransitions : Prop :=
  ∀ (g : Geometry) (t : Nat), g.Legal →
    (g.vbs.toNat % g.lpf.toNat ≠ g.vbe.toNat % g.lpf.toNat →
      ((isVblank g t = false ∧ isVblank g (t + 1) = true) ↔
        (t + 1) % framePeriod g = g.vbs.toNat % g.lpf.toNat * g.cpl.toNat) ∧
      ((isVblank g t = true ∧ isVblank g (t + 1) = false) ↔
        (t + 1) % framePeriod g = g.vbe.toNat % g.lpf.toNat * g.cpl.toNat)) ∧
    (g.hbs.toNat % g.cpl.toNat ≠ g.hbe.toNat % g.cpl.toNat →
      ((isHblank g t = false ∧ isHblank g (t + 1) = true) ↔ (t + 1) % g.cpl.toNat = g.hbs.toNat % g.cpl.toNat) ∧
      ((isHblank g t = true ∧ isHblank g (t + 1) = false) ↔
        (t + 1) % g.cpl.toNat = g.hbe.toNat % g.cpl.toNat)) ∧
    ((g.vbs = g.vbe ∨ (g.vbs = g.lpf ∧ g.vbe = 0)) → isVblank g t = false) ∧
    ((g.vbs = 0 ∧ g.vbe = g.lpf) → isVblank g t = true) ∧
    ((g.hbs = g.hbe ∨ (g.hbs = g.cpl ∧ g.hbe = 0)) → isHblank g t = false) ∧
    ((g.hbs = 0 ∧ g.hbe = g.cpl) → isHblank g t = true)

/-- R217: the line bit is bit n of the scanline number, for any n, and 0 at and above the bit length of LPF - 1. -/
def Obligations.LineBit : Prop :=
  ∀ (g : Geometry) (n t : Nat),
    (lineBit g n t = true ↔ scanlineAt g t / 2 ^ n % 2 = 1) ∧
    (g.Legal → g.lpf.toNat - 1 < 2 ^ n → lineBit g n t = false)

/-- R43: the status outputs are defined exactly in phase Run with a geometry, are the raster functions at
`st.elapsed`, and are what the queries at NOW respond. -/
def Obligations.StatusOutputs : Prop :=
  ∀ s : State,
    (s.phase ≠ .run → statusOutputs s = none) ∧
    ∀ g, s.phase = .run → s.geo = some g → g.Legal → ∃ o, statusOutputs s = some o ∧
      o.scanline.toNat = scanlineAt g s.elapsed.toNat ∧ o.hpos.toNat = hposAt g s.elapsed.toNat ∧
      o.hblank = isHblank g s.elapsed.toNat ∧ o.vblank = isVblank g s.elapsed.toNat ∧
      o.cblank = (o.vblank && !o.hblank) ∧
      exec (.rcScanline true 0) s = .next { s with responses := s.responses ++ [o.scanline.setWidth 64] } ∧
      exec (.rcHpos true 0) s = .next { s with responses := s.responses ++ [o.hpos.setWidth 64] } ∧
      exec (.rcHblank true 0) s = .next { s with responses := s.responses ++ [boolWord o.hblank] } ∧
      exec (.rcVblank true 0) s = .next { s with responses := s.responses ++ [boolWord o.vblank] } ∧
      exec (.rcCblank true 0) s = .next { s with responses := s.responses ++ [boolWord o.cblank] }

/-! ## The scheduler -/

/-- R241, R243, R257: SCHED_AFTER and SCHED_PERIODIC arm one event at now plus the operand, with the next id and the
next sequence number, deferred exactly when a callback armed it, and respond the id. -/
def Obligations.ScheduleArms : Prop :=
  ∀ (s : State) (d : Word64) (tag : Word32), s.phase = .config ∨ s.phase = .run →
    s.elapsed.toNat + d.toNat < 2 ^ 64 → s.queue.length ≠ s.params.maxEvents → s.nextId ≠ 0 →
    s.nextSeq ≠ BitVec.allOnes 64 → (∀ e ∈ s.queue, e.id ≠ s.nextId) →
    exec (.schedAfter d tag) s = .next { s with
      queue := s.queue ++ [⟨s.nextId, s.elapsed + d, none, tag, s.nextSeq, s.ctx == .callback⟩]
      nextId := s.nextId + 1, nextSeq := s.nextSeq + 1
      responses := s.responses ++ [s.nextId.setWidth 64] } ∧
    (d ≠ 0 → exec (.schedPeriodic d tag) s = .next { s with
      queue := s.queue ++ [⟨s.nextId, s.elapsed + d, some d, tag, s.nextSeq, s.ctx == .callback⟩]
      nextId := s.nextId + 1, nextSeq := s.nextSeq + 1
      responses := s.responses ++ [s.nextId.setWidth 64] })

/-- The checks of SCHED_AFTER and SCHED_PERIODIC in the order of R329, each leaving its fault. (That the id
counter has moved when the sequence counter is found used up is R241's order, which log 9 reads against R330's list.) -/
def Obligations.ScheduleChecks : Prop :=
  ∀ (s : State) (d : Word64) (tag : Word32), s.phase = .config ∨ s.phase = .run →
    exec (.schedPeriodic 0 tag) s = .next (afterFault .periodZero s) ∧
    ∀ i, (i = .schedAfter d tag ∨ (i = .schedPeriodic d tag ∧ d ≠ 0)) →
      (2 ^ 64 ≤ s.elapsed.toNat + d.toNat → exec i s = .next (afterFault .timeOverflow s)) ∧
      (s.elapsed.toNat + d.toNat < 2 ^ 64 →
        (s.queue.length = s.params.maxEvents → exec i s = .next (afterFault .queueFull s)) ∧
        (s.queue.length ≠ s.params.maxEvents →
          (s.nextId = 0 → exec i s = .next (afterFault .idExhausted s)) ∧
          (s.nextId ≠ 0 → s.nextSeq = BitVec.allOnes 64 →
            exec i s = .next (afterFault .idExhausted { s with nextId := s.nextId + 1 }))))

/-- R245: in every phase that takes commands, and in every context, CANCEL removes the event with its id and is no
change when there is none; its encoding is OP 0x32 with the id in W1[31:0]. -/
def Obligations.CancelRemoves : Prop :=
  ∀ (s : State) (id : Word32), s.phase = .config ∨ s.phase = .run →
    encode (.cancel id) = (0x00000032, [id.setWidth 64]) ∧
    exec (.cancel id) s = .next { s with queue := s.queue.filter fun e => e.id != id } ∧
    ((∀ e ∈ s.queue, e.id ≠ id) → exec (.cancel id) s = .next s) ∧
    (Inv s → ∀ e ∈ s.queue, e.id = id → ∀ t, exec (.cancel id) s = .next t →
      t.queue.length + 1 = s.queue.length ∧ ∀ e', e' ∈ t.queue ↔ e' ∈ s.queue ∧ e' ≠ e)

/-- R250, R251: a STEP at Top with no event due at its end adds its cycles to the time, clears every defer bit and ends
its pump at once; a STEP whose sum reaches 2^64 faults and leaves the time. -/
def Obligations.StepAdvancesTime : Prop :=
  ∀ (s : State) (c : Word64), s.phase = .run → s.ctx = .top →
    (2 ^ 64 ≤ s.elapsed.toNat + c.toNat → exec (.step c) s = .next (afterFault .timeOverflow s)) ∧
    (s.elapsed.toNat + c.toNat < 2 ^ 64 →
      (∀ e ∈ s.queue, s.elapsed.toNat + c.toNat < e.deadline.toNat) →
      exec (.step c) s = .next { s with
        elapsed := s.elapsed + c, queue := s.queue.map (fun e => { e with defer := false }), pumping := false })

/-- R250, R251, R256, R327: a STEP past one deadline or more fires the event with the least deadline; under Fifo, among
equal deadlines, the one with the least seq, and under Any some one of them. A one-shot event leaves the queue; a periodic
one stays in its place, with its deadline a period later, a new seq and defer 0; the callback is invoked after that. A
re-arm whose sum reaches 2^64 faults with F_TIME_OVERFLOW, one that finds the sequence counter used up with
F_ID_EXHAUSTED (what the queue then holds is log 10's reading). -/
def Obligations.StepFiresEarliest : Prop :=
  ∀ (s u : State) (c : Word64), Inv s → s.phase = .run → s.ctx = .top → s.elapsed.toNat + c.toNat < 2 ^ 64 →
    (∃ e ∈ s.queue, e.deadline.toNat ≤ s.elapsed.toNat + c.toNat) →
    u = { s with
      elapsed := s.elapsed + c, queue := s.queue.map (fun x => { x with defer := false }), pumping := true } →
    ∃ e, FiresNext u e ∧ exec (.step c) s = .next (afterFiring e (afterTieDraw u)) ∧
      (s.params.tieOrder = .fifo → ∀ e', FiresNext u e' → e' = e)

/-- R256: pick answers a due event with the least deadline; under Fifo it has the least seq among those with that
deadline, and a re-arm renews the seq; under Any it is any one of them. -/
def Obligations.PickOrder : Prop :=
  (∀ s : State, (pickDue s = none ↔ ∀ e ∈ s.queue, isDue s e = false) ∧
    ∀ e, pickDue s = some e →
      e ∈ s.queue ∧ e.defer = false ∧ e.deadline.toNat ≤ s.elapsed.toNat ∧
      ∀ e' ∈ s.queue, isDue s e' = true → e.deadline.toNat < e'.deadline.toNat ∨
        (e.deadline = e'.deadline ∧ (s.params.tieOrder = .fifo → e.seq.toNat ≤ e'.seq.toNat))) ∧
  ∀ (e : Event) (p : Word64) (s s' : State), e.period = some p → fireEvent e s = .ok s' →
    ∀ x ∈ s'.queue, x.id = e.id → x.seq = s.nextSeq

/-- R252: each firing of a pump lowers the number of firings it has left, no command a callback may issue raises it,
and a pump that does not fire again ends. -/
def Obligations.PumpTerminates : Prop :=
  ∀ (s t : State) (i : Instr), Inv s → s.phase = .run → exec i s = .next t → t.phase = .run →
    (s.ctx = .callback → (∀ d, i ≠ .hret d) → t.ctx = .callback ∧ firingsLeft t ≤ firingsLeft s) ∧
    (s.ctx = .callback → (∃ d, i = .hret d) →
      (t.ctx = .top ∧ t.pumping = false ∧ firingsLeft t = 0) ∨
      (t.ctx = .callback ∧ firingsLeft t < firingsLeft s)) ∧
    (∀ c, i = .step c →
      (t.ctx = .top ∧ t.pumping = false ∧ firingsLeft t = 0) ∨
      (t.ctx = .callback ∧ firingsLeft t < firingsLeft (pumpStart { s with elapsed := s.elapsed + c })))

/-- R257: an event armed in context Callback is deferred and not due, whatever its deadline, for the rest of the pump;
an HRET, which goes on with the pump, leaves every deferred event in the queue as it is; the next pump clears every defer
bit at its start; a re-arm in the pump is never deferred. -/
def Obligations.DeferralRule : Prop :=
  (∀ (i : Instr) (s t : State), exec i s = .next t → s.ctx = .callback → t.ctx = .callback →
    (∀ d, i ≠ .hret d) → ∀ e ∈ t.queue, e ∉ s.queue → e.defer = true ∧ isDue t e = false) ∧
  (∀ (s t : State), pumpContinue s = .next t → ∀ tag id, t.trace = s.trace ++ [.invCallback tag id] →
    ∃ e ∈ s.queue, e.id = id ∧ e.tag = tag ∧ e.defer = false) ∧
  (∀ (s t : State) (d : Byte), Inv s → exec (.hret d) s = .next t → ∀ e ∈ s.queue, e.defer = true → e ∈ t.queue) ∧
  (∀ s : State, ∀ e ∈ (pumpStart s).queue, e.defer = false) ∧
  (∀ (e : Event) (p : Word64) (s s' : State), e.period = some p → s.ctx = .top → fireEvent e s = .ok s' →
    ∀ x ∈ s'.queue, x.id = e.id → x.defer = false)

/-- R35, R248: an id enters the queue only as the response of SCHED_AFTER or SCHED_PERIODIC, which takes it from the
counter and moves the counter on; so an id that left the queue never comes back. -/
def Obligations.IdsComeFromTheCounter : Prop :=
  ∀ (i : Instr) (s t : State), exec i s = .next t → ∀ e ∈ t.queue,
    (∃ e' ∈ s.queue, e'.id = e.id ∧ e'.tag = e.tag ∧ e'.period = e.period) ∨
    ((i.opcode = .schedAfter ∨ i.opcode = .schedPeriodic) ∧ e.id = s.nextId ∧ s.nextId ≠ 0 ∧
      t.nextId = s.nextId + 1 ∧ t.responses = s.responses ++ [e.id.setWidth 64])

/-! ## Bank slots -/

/-- R282: a bank select sets the selector to the index below N, and at or above N does what BANK_OOR says; both through
BANK_SELECT and through a WRITE that a BANKSEL range answers, with the data byte as index. -/
def Obligations.BankSelectBothWays : Prop :=
  ∀ (s : State) (k : Bank), s.phase = .run →
    (∀ (b : Sel) (x : Word16), b.toNat < s.params.numBanks → bankAt s b.toNat = some k →
      (x.toNat < k.n.toNat → exec (.bankSelect b x) s =
        .next { s with banks := s.banks.set b.toNat (some { k with sel := x }) b.isLt }) ∧
      (k.n.toNat ≤ x.toNat →
        (s.params.bankOor = .fault → exec (.bankSelect b x) s = .next (afterFault .bankIndex s)) ∧
        (s.params.bankOor = .modulo → exec (.bankSelect b x) s =
          .next { s with banks := s.banks.set b.toNat (some { k with sel := x % k.n }) b.isLt }) ∧
        (s.params.bankOor = .ignore → exec (.bankSelect b x) s = .next s))) ∧
    (∀ (sp : Sel) (v : Byte) (a : Word32) (e : RangeEntry), AccessOk s sp 0 a → lookup s sp .w a = some e →
      e.tkind = .banksel → bankAt s e.tid.toNat = some k →
      (v.toNat < k.n.toNat → exec (.write sp 0 v a) s =
        .next { s with
          banks := s.banks.setIfInBounds e.tid.toNat (some { k with sel := v.setWidth 16 })
          busLatch := latchAfter s sp v }) ∧
      (k.n.toNat ≤ v.toNat →
        (s.params.bankOor = .fault → exec (.write sp 0 v a) s = .next (afterFault .bankIndex s)) ∧
        (s.params.bankOor = .modulo → exec (.write sp 0 v a) s =
          .next { s with
            banks := s.banks.setIfInBounds e.tid.toNat (some { k with sel := v.setWidth 16 % k.n })
            busLatch := latchAfter s sp v }) ∧
        (s.params.bankOor = .ignore → exec (.write sp 0 v a) s =
          .next { s with busLatch := latchAfter s sp v })))

/-- R281, R286: BANK_ACTIVE responds the selector, which is below N in every good state; both bank commands fault with
F_SELECTOR where SEL names no configured slot. -/
def Obligations.BankActiveAndSelector : Prop :=
  ∀ (s : State) (b : Sel), s.phase = .run →
    (∀ k, b.toNat < s.params.numBanks → bankAt s b.toNat = some k →
      exec (.bankActive b) s = .next { s with responses := s.responses ++ [k.sel.setWidth 64] } ∧
      (Inv s → k.sel.toNat < k.n.toNat)) ∧
    ((s.params.numBanks ≤ b.toNat ∨ bankAt s b.toNat = none) →
      exec (.bankActive b) s = .next (afterFault .selector s) ∧
      ∀ x, exec (.bankSelect b x) s = .next (afterFault .selector s))

/-- R285: after a bank select, by BANK_SELECT or by a WRITE that a BANKSEL range answers, the very next access to any
range of the slot goes to the buffer then selected, and to no other: the index itself below N, and at or above N what
BANK_OOR makes of it (the index mod N under Modulo, the buffer selected before under Ignore). -/
def Obligations.NextAccessSeesTheSwitch : Prop :=
  ∀ (s : State) (i : Instr) (b : Sel) (x y : Word16) (k : Bank) (sp : Sel) (v : Byte) (a : Word32) (e : RangeEntry),
    Inv s → AccessOk s sp 0 a → bankAt s b.toNat = some k →
    (i = .bankSelect b x ∨ ∃ (spS : Sel) (w : Byte) (aS : Word32) (eS : RangeEntry), i = .write spS 0 w aS ∧
      AccessOk s spS 0 aS ∧ lookup s spS .w aS = some eS ∧ eS.tkind = .banksel ∧ eS.tid.toNat = b.toNat ∧
      x = w.setWidth 16) →
    ((x.toNat < k.n.toNat ∧ y = x) ∨ (k.n.toNat ≤ x.toNat ∧ s.params.bankOor = .modulo ∧ y = x % k.n) ∨
      (k.n.toNat ≤ x.toNat ∧ s.params.bankOor = .ignore ∧ y = k.sel)) →
    e.tkind = .bank → e.tid.toNat = b.toNat →
    ∃ t, exec i s = .next t ∧ bankAt t b.toNat = some { k with sel := y } ∧ t.mem = s.mem ∧
      (lookup s sp .r a = some e → s.cell b.toNat y (rangeOffset a e) = some v →
        exec (.read sp 0 a) t =
          .next { t with responses := s.responses ++ [v.setWidth 64], busLatch := latchAfter t sp v }) ∧
      (lookup s sp .w a = some e → ∃ u, exec (.write sp 0 v a) t = .next u ∧
        u.cell b.toNat y (rangeOffset a e) = some v ∧
        ∀ j off, j ≠ y → u.cell b.toNat j off = s.cell b.toNat j off)

/-! ## Invocation -/

/-- R302, R305, R251: HRET returns to Top with no continuation and applies it: a DEVICE read responds exactly the byte HRET
carries, a DEVICE write completes whatever that byte is, a callback's pump with nothing more due ends, and one with an
event due fires the next, by the same rule as in StepFiresEarliest. -/
def Obligations.HretCompletes : Prop :=
  ∀ (s : State) (d : Byte), s.phase = .run → s.ctx ≠ .top →
    (∀ sp, s.cont = some (.devRead sp) →
      exec (.hret d) s = .next { s with
        ctx := .top, cont := none, responses := s.responses ++ [d.setWidth 64], busLatch := latchAfter s sp d }) ∧
    (∀ sp v, s.cont = some (.devWrite sp v) →
      exec (.hret d) s = .next { s with ctx := .top, cont := none, busLatch := latchAfter s sp v }) ∧
    (∀ id, s.cont = some (.callback id) →
      ((∀ e ∈ s.queue, e.defer = true ∨ s.elapsed.toNat < e.deadline.toNat) →
        exec (.hret d) s = .next { s with ctx := .top, cont := none, pumping := false }) ∧
      (Inv s → (∃ e ∈ s.queue, e.defer = false ∧ e.deadline.toNat ≤ s.elapsed.toNat) →
        ∃ e, FiresNext s e ∧
          exec (.hret d) s = .next (afterFiring e (afterTieDraw { s with ctx := .top, cont := none })) ∧
          (s.params.tieOrder = .fifo → ∀ e', FiresNext s e' → e' = e)))

/-- R306, R304: while an invocation is outstanding no command changes the time; and none but HRET touches the context,
the continuation or the pump, or invokes the handler agent. -/
def Obligations.OneInvocationAtATime : Prop :=
  ∀ (i : Instr) (s t : State), s.ctx ≠ .top → exec i s = .next t →
    t.elapsed = s.elapsed ∧
    ((∀ d, i ≠ .hret d) →
      t.ctx = s.ctx ∧ t.cont = s.cont ∧ t.pumping = s.pumping ∧
      (t.trace = s.trace ∨ (t.phase ≠ s.phase ∧ ∃ r, t.trace = s.trace ++ [r] ∧
        (∀ h o, r ≠ .invRead h o) ∧ (∀ h o v, r ≠ .invWrite h o v) ∧ ∀ tag id, r ≠ .invCallback tag id)))

/-! ## Save, restore, reset -/

/-- R345, R348: restoring, at Top in phase Run, an image saved from a block of the same configuration sets every
serializable field to its value at the save, with every defer bit 0, and leaves every other field. Where the save was
itself at Top in phase Run, the commands that follow the restore give the responses and append the trace records they
would have after the save, the handler answers (the bytes of the HRETs among them) and the draws being the same. -/
def Obligations.SaveRestoreRoundTrip : Prop :=
  ∀ s u : State, Inv s → Inv u → u.params = s.params → u.phase = .run → u.ctx = .top →
    (∀ b, (bankAt u b).map (fun k => (k.n, k.size)) = (bankAt s b).map (fun k => (k.n, k.size))) →
    ∃ t, restoreSnapshot (takeSnapshot s) u = .next t ∧
      t = { u with
        elapsed := s.elapsed, banks := t.banks, mem := s.mem
        queue := s.queue.map (fun e => { e with defer := false })
        nextId := s.nextId, nextSeq := s.nextSeq, busLatch := t.busLatch } ∧
      (∀ b, bankAt t b = bankAt s b) ∧ (∀ b i off, t.cell b i off = s.cell b i off) ∧
      (∀ v0, s.params.openBus = .lastDriven v0 → ∀ sp : Sel, sp.toNat < s.params.numSpaces →
        t.busLatch[sp.toNat]'sp.isLt = s.busLatch[sp.toNat]'sp.isLt) ∧
      (s.phase = .run → s.ctx = .top → u.geo = s.geo → u.ranges = s.ranges → u.ports = s.ports →
        u.policy = s.policy →
        ∀ (is : List Instr) (s' : State), runCommands is { s with draws := u.draws } = .next s' →
          ∃ (t' : State) (resp : List Word64) (recs : List TraceRec), runCommands is t = .next t' ∧
            s'.responses = s.responses ++ resp ∧ t'.responses = u.responses ++ resp ∧
            s'.trace = s.trace ++ recs ∧ t'.trace = u.trace ++ recs)

/-- R345, R346, R347: the checks of restore in their order, the image valid exactly when the items of R346 hold (that an
image whose list of cells is not canonical, or names a cell outside the buffers, is not valid is log 17's choice), and
every field restored, the selectors and latches among them; save as an observation in every phase. A host operation behind
an unfinished group, and a reset behind a word that begins no group, is served as if it stood first (log 25's choice). -/
def Obligations.SaveAndRestoreSteps : Prop :=
  ∀ (s : State) (img : Snapshot) (rest : List Input),
    (s.inbox = .save :: rest →
      step s = .next { s with inbox := rest, saves := s.saves ++ [takeSnapshot s] }) ∧
    (s.inbox = .restore img :: rest →
      (s.phase = .config → step s = .next (afterFault .phase { s with inbox := rest })) ∧
      (s.phase = .run →
        ((s.ctx ≠ .top ∨ s.pumping = true) → step s = .next (afterFault .context { s with inbox := rest })) ∧
        (s.ctx = .top → s.pumping = false →
          (¬ValidImage s img → step s = .next (afterFault .restore { s with inbox := rest })) ∧
          (ValidImage s img → ∃ t, step s = .next t ∧
            t = { s with
              inbox := rest, elapsed := img.elapsed, banks := t.banks, mem := img.mem
              queue := img.queue.map (fun e => { e with defer := false })
              nextId := img.nextId, nextSeq := img.nextSeq, busLatch := t.busLatch } ∧
            (∀ b : Nat, bankAt t b = (img.banks[b]?).join) ∧
            (∀ v0, s.params.openBus = .lastDriven v0 → ∀ sp : Sel, sp.toNat < s.params.numSpaces →
              img.busLatch[sp.toNat]? = some (t.busLatch[sp.toNat]'sp.isLt)) ∧
            ((∀ v0, s.params.openBus ≠ .lastDriven v0) → t.busLatch = s.busLatch))))) ∧
    (s.halted = false →
      (∀ (h : Word32) (ws : List Word64) (op : Input), ws.length < operandCount h →
        (op = .save ∨ op = .restore img) → s.inbox = groupInputs (h, ws) ++ op :: rest →
        step s = step { s with inbox := op :: (groupInputs (h, ws) ++ rest) }) ∧
      (∀ (h : Word32) (ws : List Word64), ws.length < operandCount h →
        s.inbox = groupInputs (h, ws) ++ .reset :: rest → step s = step { s with inbox := .reset :: rest }) ∧
      (∀ (w : Word64) (pre : List Input), (∀ i ∈ pre, i ≠ .reset) → s.inbox = .operand w :: (pre ++ .reset :: rest) →
        step s = step { s with inbox := .reset :: rest }))

/-- R360: a reset input is answered in every phase, Failed and Faulted among them, by a state with every piece of state at
its reset value and the same parameters; State.reset is such a state too. -/
def Obligations.ResetValues : Prop :=
  ∀ (s : State) (rest : List Input), s.inbox = .reset :: rest →
    ∃ u, step s = .next u ∧ u.params = s.params ∧ ∀ t, (t = u ∨ t = State.reset) →
      t.elapsed = 0 ∧ t.geo = none ∧ (∀ sp d, rangeTable t sp d = []) ∧
      (∀ u es, portList t u = some es → es = []) ∧ (∀ u, unitPolicy t u = .last) ∧ (∀ b, bankAt t b = none) ∧
      t.queue = [] ∧ t.nextId = 1 ∧ t.nextSeq = 0 ∧
      (∀ v0, t.params.openBus = .lastDriven v0 → ∀ sp : Sel, t.busLatch[sp.toNat]'sp.isLt = v0) ∧
      t.cont = none ∧ t.pumping = false ∧ t.ctx = .top ∧ t.phase = .config ∧ t.cfgError = none ∧ t.fault = none ∧
      t.trace = [] ∧ t.cmdCount = 0

/-! ## The whole machine -/

/-- The reset state is good. -/
def Obligations.ResetInv : Prop :=
  Inv State.reset

/-- Every step, from every good state and whatever waits at the interface, gives a good state: no command, no restore of
any image, no illegal group breaks an invariant of R44. -/
def Obligations.StepKeepsInv : Prop :=
  ∀ s t : State, Inv s → step s = .next t → Inv t

/-- R44: the seven invariants, in every state a run reaches from reset under legal parameters. -/
def Obligations.ReachableInvariants : Prop :=
  ∀ s : State, Reachable s →
    (s.phase = .run → ∃ g, s.geo = some g ∧ g.Legal) ∧
    (∀ sp d, ∀ e ∈ rangeTable s sp d, e.lo.toNat ≤ e.hi.toNat ∧
      ∀ a : Word32, e.lo.toNat ≤ a.toNat → a.toNat ≤ e.hi.toNat → a &&& e.mask = a) ∧
    (∀ (sp : Sel) (d : Dir) (j k : Nat) (e e' : RangeEntry) (a : Word32), (rangeTable s sp d)[j]? = some e → (rangeTable s sp d)[k]? = some e' → j < k →
      covers (spaceAw s sp) e a = true → covers (spaceAw s sp) e' a = true → e'.ovr = true) ∧
    (∀ b k, bankAt s b = some k → k.sel.toNat < k.n.toNat) ∧
    ((s.queue.map (·.id)).Nodup ∧ ∀ e ∈ s.queue, e.id ≠ 0 ∧ (s.nextId ≠ 0 → e.id.toNat < s.nextId.toNat)) ∧
    (s.phase = .run → ∀ e ∈ s.queue, s.elapsed.toNat ≤ e.deadline.toNat ∨
      { e with defer := false } ∈ dueEvents (pumpStart s)) ∧
    (s.ctx = .top ↔ s.cont = none)

/-- A good state that is not in Failed or Faulted and has whole groups at its interface takes its step: no command is
stuck, refused or left without a meaning. -/
def Obligations.Progress : Prop :=
  ∀ s : State, Inv s → s.halted = false → Framed s.inbox → ∃ t, step s = .next t

/-- R48, column "written by": which commands can change which state. -/
def Obligations.WrittenBy : Prop :=
  ∀ (i : Instr) (s t : State), exec i s = .next t →
    t.params = s.params ∧ t.inbox = s.inbox ∧ t.saves = s.saves ∧ t.cmdCount = s.cmdCount ∧
    s.responses <+: t.responses ∧ s.trace <+: t.trace ∧
    (t.elapsed ≠ s.elapsed → i.opcode = .step) ∧
    (t.geo ≠ s.geo → i.opcode = .cfgGeometry) ∧
    (t.ranges ≠ s.ranges → i.opcode = .regRange) ∧
    (t.ports ≠ s.ports → i.opcode = .regPort) ∧
    (t.policy ≠ s.policy → i.opcode = .cfgPortunit) ∧
    (∀ b k, bankAt s b = some k → ∃ k', bankAt t b = some k' ∧ k'.n = k.n ∧ k'.size = k.size ∧
      (k'.sel ≠ k.sel → i.opcode ∈ [.bankSelect, .write, .hret])) ∧
    (∀ b, bankAt s b = none → bankAt t b ≠ none → i.opcode = .cfgBank) ∧
    (∀ b j off, t.cell b j off ≠ s.cell b j off → i.opcode ∈ [.write, .cfgBank]) ∧
    (t.queue ≠ s.queue → i.opcode ∈ [.schedAfter, .schedPeriodic, .cancel, .step, .hret]) ∧
    (t.nextId ≠ s.nextId → i.opcode ∈ [.schedAfter, .schedPeriodic]) ∧
    (t.nextSeq ≠ s.nextSeq → i.opcode ∈ [.schedAfter, .schedPeriodic, .step, .hret]) ∧
    (t.busLatch ≠ s.busLatch → i.opcode ∈ [.read, .write, .hret]) ∧
    ((t.ctx ≠ s.ctx ∨ t.cont ≠ s.cont) → i.opcode ∈ [.read, .write, .step, .hret]) ∧
    (t.pumping ≠ s.pumping → i.opcode ∈ [.step, .hret]) ∧
    (t.cfgError ≠ s.cfgError → t.phase = .failed) ∧ (t.fault ≠ s.fault → t.phase = .faulted) ∧
    (t.phase ≠ s.phase → (i.opcode = .start ∧ t.phase = .run) ∨ t.phase = .failed ∨ t.phase = .faulted)

/-- R157: in phase Run no step but a reset changes the range tables, the port lists, the policies, the geometry, or the N
and S of a slot; a restore does not either. (That a reset drops the words before it is log 25's choice, that it keeps
those behind it and counts one draw is log 20's.) -/
def Obligations.TablesFixedInRun : Prop :=
  ∀ s t : State, s.phase = .run → step s = .next t →
    (∃ pre rest, s.inbox = pre ++ .reset :: rest ∧
      t = { State.resetWith s.params with inbox := rest, draws := s.draws + 1 }) ∨
    (t.ranges = s.ranges ∧ t.ports = s.ports ∧ t.policy = s.policy ∧ t.geo = s.geo ∧
      ∀ b, (bankAt t b).map (fun k => (k.n, k.size)) = (bankAt s b).map (fun k => (k.n, k.size)))

/-- R371: no command advances simulated time except STEP, which advances it by exactly its operand. -/
def Obligations.OnlyStepAdvancesTime : Prop :=
  ∀ (i : Instr) (s t : State), exec i s = .next t →
    ((∀ c, i ≠ .step c) → t.elapsed = s.elapsed) ∧
    ∀ c, i = .step c → t.elapsed = s.elapsed ∧ t.phase = .faulted ∨
      t.elapsed.toNat = s.elapsed.toNat + c.toNat

/-- R45: the block appends to the trace and never reads it: with any other trace before it, a command does the same and
appends the same records. -/
def Obligations.TraceNeverRead : Prop :=
  State.reset.trace = [] ∧
  ∀ (i : Instr) (s t : State) (tr : List TraceRec), exec i s = .next t →
    ∃ new, t.trace = s.trace ++ new ∧ exec i { s with trace := tr } = .next { t with trace := tr ++ new }
end

