-- ==== Sys2Proof/Laws/State.lean ====
section
/-! SUPPORT. One lemma per field per named update of State, each true by rfl: what every later proof cites instead of
unfolding an update. -/

namespace Sys2Proof.Machine

/-! ## emit -/

section
variable (r : TraceRec) (s : State)

@[simp] theorem emit_params : (emit r s).params = s.params := rfl
@[simp] theorem emit_elapsed : (emit r s).elapsed = s.elapsed := rfl
@[simp] theorem emit_geo : (emit r s).geo = s.geo := rfl
@[simp] theorem emit_ranges : (emit r s).ranges = s.ranges := rfl
@[simp] theorem emit_ports : (emit r s).ports = s.ports := rfl
@[simp] theorem emit_policy : (emit r s).policy = s.policy := rfl
@[simp] theorem emit_banks : (emit r s).banks = s.banks := rfl
@[simp] theorem emit_mem : (emit r s).mem = s.mem := rfl
@[simp] theorem emit_queue : (emit r s).queue = s.queue := rfl
@[simp] theorem emit_nextId : (emit r s).nextId = s.nextId := rfl
@[simp] theorem emit_nextSeq : (emit r s).nextSeq = s.nextSeq := rfl
@[simp] theorem emit_busLatch : (emit r s).busLatch = s.busLatch := rfl
@[simp] theorem emit_cont : (emit r s).cont = s.cont := rfl
@[simp] theorem emit_pumping : (emit r s).pumping = s.pumping := rfl
@[simp] theorem emit_cfgError : (emit r s).cfgError = s.cfgError := rfl
@[simp] theorem emit_phase : (emit r s).phase = s.phase := rfl
@[simp] theorem emit_ctx : (emit r s).ctx = s.ctx := rfl
@[simp] theorem emit_fault : (emit r s).fault = s.fault := rfl
@[simp] theorem emit_trace : (emit r s).trace = s.trace ++ [r] := rfl
@[simp] theorem emit_cmdCount : (emit r s).cmdCount = s.cmdCount := rfl
@[simp] theorem emit_inbox : (emit r s).inbox = s.inbox := rfl
@[simp] theorem emit_responses : (emit r s).responses = s.responses := rfl
@[simp] theorem emit_saves : (emit r s).saves = s.saves := rfl
@[simp] theorem emit_draws : (emit r s).draws = s.draws := rfl

end

/-! ## respond -/

section
variable (v : Word64) (s : State)

@[simp] theorem respond_params : (respond v s).params = s.params := rfl
@[simp] theorem respond_elapsed : (respond v s).elapsed = s.elapsed := rfl
@[simp] theorem respond_geo : (respond v s).geo = s.geo := rfl
@[simp] theorem respond_ranges : (respond v s).ranges = s.ranges := rfl
@[simp] theorem respond_ports : (respond v s).ports = s.ports := rfl
@[simp] theorem respond_policy : (respond v s).policy = s.policy := rfl
@[simp] theorem respond_banks : (respond v s).banks = s.banks := rfl
@[simp] theorem respond_mem : (respond v s).mem = s.mem := rfl
@[simp] theorem respond_queue : (respond v s).queue = s.queue := rfl
@[simp] theorem respond_nextId : (respond v s).nextId = s.nextId := rfl
@[simp] theorem respond_nextSeq : (respond v s).nextSeq = s.nextSeq := rfl
@[simp] theorem respond_busLatch : (respond v s).busLatch = s.busLatch := rfl
@[simp] theorem respond_cont : (respond v s).cont = s.cont := rfl
@[simp] theorem respond_pumping : (respond v s).pumping = s.pumping := rfl
@[simp] theorem respond_cfgError : (respond v s).cfgError = s.cfgError := rfl
@[simp] theorem respond_phase : (respond v s).phase = s.phase := rfl
@[simp] theorem respond_ctx : (respond v s).ctx = s.ctx := rfl
@[simp] theorem respond_fault : (respond v s).fault = s.fault := rfl
@[simp] theorem respond_trace : (respond v s).trace = s.trace := rfl
@[simp] theorem respond_cmdCount : (respond v s).cmdCount = s.cmdCount := rfl
@[simp] theorem respond_inbox : (respond v s).inbox = s.inbox := rfl
@[simp] theorem respond_responses : (respond v s).responses = s.responses ++ [v] := rfl
@[simp] theorem respond_saves : (respond v s).saves = s.saves := rfl
@[simp] theorem respond_draws : (respond v s).draws = s.draws := rfl

end

/-! ## faultState -/

section
variable (c : FaultCode) (n : Word64) (s : State)

@[simp] theorem faultState_params : (faultState c n s).params = s.params := rfl
@[simp] theorem faultState_elapsed : (faultState c n s).elapsed = s.elapsed := rfl
@[simp] theorem faultState_geo : (faultState c n s).geo = s.geo := rfl
@[simp] theorem faultState_ranges : (faultState c n s).ranges = s.ranges := rfl
@[simp] theorem faultState_ports : (faultState c n s).ports = s.ports := rfl
@[simp] theorem faultState_policy : (faultState c n s).policy = s.policy := rfl
@[simp] theorem faultState_banks : (faultState c n s).banks = s.banks := rfl
@[simp] theorem faultState_mem : (faultState c n s).mem = s.mem := rfl
@[simp] theorem faultState_queue : (faultState c n s).queue = s.queue := rfl
@[simp] theorem faultState_nextId : (faultState c n s).nextId = s.nextId := rfl
@[simp] theorem faultState_nextSeq : (faultState c n s).nextSeq = s.nextSeq := rfl
@[simp] theorem faultState_busLatch : (faultState c n s).busLatch = s.busLatch := rfl
@[simp] theorem faultState_cont : (faultState c n s).cont = s.cont := rfl
@[simp] theorem faultState_pumping : (faultState c n s).pumping = s.pumping := rfl
@[simp] theorem faultState_cfgError : (faultState c n s).cfgError = s.cfgError := rfl
@[simp] theorem faultState_phase : (faultState c n s).phase = .faulted := rfl
@[simp] theorem faultState_ctx : (faultState c n s).ctx = s.ctx := rfl
@[simp] theorem faultState_fault : (faultState c n s).fault = some ⟨c, n⟩ := rfl
@[simp] theorem faultState_trace : (faultState c n s).trace = s.trace ++ [.faultRec c] := rfl
@[simp] theorem faultState_cmdCount : (faultState c n s).cmdCount = s.cmdCount := rfl
@[simp] theorem faultState_inbox : (faultState c n s).inbox = s.inbox := rfl
@[simp] theorem faultState_responses : (faultState c n s).responses = s.responses := rfl
@[simp] theorem faultState_saves : (faultState c n s).saves = s.saves := rfl
@[simp] theorem faultState_draws : (faultState c n s).draws = s.draws := rfl

end

/-! ## configErrorState -/

section
variable (k : CfgKind) (i : List InfoItem) (s : State)

@[simp] theorem configErrorState_params : (configErrorState k i s).params = s.params := rfl
@[simp] theorem configErrorState_elapsed : (configErrorState k i s).elapsed = s.elapsed := rfl
@[simp] theorem configErrorState_geo : (configErrorState k i s).geo = s.geo := rfl
@[simp] theorem configErrorState_ranges : (configErrorState k i s).ranges = s.ranges := rfl
@[simp] theorem configErrorState_ports : (configErrorState k i s).ports = s.ports := rfl
@[simp] theorem configErrorState_policy : (configErrorState k i s).policy = s.policy := rfl
@[simp] theorem configErrorState_banks : (configErrorState k i s).banks = s.banks := rfl
@[simp] theorem configErrorState_mem : (configErrorState k i s).mem = s.mem := rfl
@[simp] theorem configErrorState_queue : (configErrorState k i s).queue = s.queue := rfl
@[simp] theorem configErrorState_nextId : (configErrorState k i s).nextId = s.nextId := rfl
@[simp] theorem configErrorState_nextSeq : (configErrorState k i s).nextSeq = s.nextSeq := rfl
@[simp] theorem configErrorState_busLatch : (configErrorState k i s).busLatch = s.busLatch := rfl
@[simp] theorem configErrorState_cont : (configErrorState k i s).cont = s.cont := rfl
@[simp] theorem configErrorState_pumping : (configErrorState k i s).pumping = s.pumping := rfl
@[simp] theorem configErrorState_cfgError : (configErrorState k i s).cfgError = some ⟨k, currentIndex s, i⟩ := rfl
@[simp] theorem configErrorState_phase : (configErrorState k i s).phase = .failed := rfl
@[simp] theorem configErrorState_ctx : (configErrorState k i s).ctx = s.ctx := rfl
@[simp] theorem configErrorState_fault : (configErrorState k i s).fault = s.fault := rfl
@[simp] theorem configErrorState_trace : (configErrorState k i s).trace = s.trace ++ [.cfgErr k i] := rfl
@[simp] theorem configErrorState_cmdCount : (configErrorState k i s).cmdCount = s.cmdCount := rfl
@[simp] theorem configErrorState_inbox : (configErrorState k i s).inbox = s.inbox := rfl
@[simp] theorem configErrorState_responses : (configErrorState k i s).responses = s.responses := rfl
@[simp] theorem configErrorState_saves : (configErrorState k i s).saves = s.saves := rfl
@[simp] theorem configErrorState_draws : (configErrorState k i s).draws = s.draws := rfl

end

/-! ## invoke -/

section
variable (r : TraceRec) (c : Ctx) (k : Cont) (s : State)

@[simp] theorem invoke_params : (invoke r c k s).params = s.params := rfl
@[simp] theorem invoke_elapsed : (invoke r c k s).elapsed = s.elapsed := rfl
@[simp] theorem invoke_geo : (invoke r c k s).geo = s.geo := rfl
@[simp] theorem invoke_ranges : (invoke r c k s).ranges = s.ranges := rfl
@[simp] theorem invoke_ports : (invoke r c k s).ports = s.ports := rfl
@[simp] theorem invoke_policy : (invoke r c k s).policy = s.policy := rfl
@[simp] theorem invoke_banks : (invoke r c k s).banks = s.banks := rfl
@[simp] theorem invoke_mem : (invoke r c k s).mem = s.mem := rfl
@[simp] theorem invoke_queue : (invoke r c k s).queue = s.queue := rfl
@[simp] theorem invoke_nextId : (invoke r c k s).nextId = s.nextId := rfl
@[simp] theorem invoke_nextSeq : (invoke r c k s).nextSeq = s.nextSeq := rfl
@[simp] theorem invoke_busLatch : (invoke r c k s).busLatch = s.busLatch := rfl
@[simp] theorem invoke_cont : (invoke r c k s).cont = some k := rfl
@[simp] theorem invoke_pumping : (invoke r c k s).pumping = s.pumping := rfl
@[simp] theorem invoke_cfgError : (invoke r c k s).cfgError = s.cfgError := rfl
@[simp] theorem invoke_phase : (invoke r c k s).phase = s.phase := rfl
@[simp] theorem invoke_ctx : (invoke r c k s).ctx = c := rfl
@[simp] theorem invoke_fault : (invoke r c k s).fault = s.fault := rfl
@[simp] theorem invoke_trace : (invoke r c k s).trace = s.trace ++ [r] := rfl
@[simp] theorem invoke_cmdCount : (invoke r c k s).cmdCount = s.cmdCount := rfl
@[simp] theorem invoke_inbox : (invoke r c k s).inbox = s.inbox := rfl
@[simp] theorem invoke_responses : (invoke r c k s).responses = s.responses := rfl
@[simp] theorem invoke_saves : (invoke r c k s).saves = s.saves := rfl
@[simp] theorem invoke_draws : (invoke r c k s).draws = s.draws := rfl

end

/-! ## endInvocation -/

section
variable (s : State)

@[simp] theorem endInvocation_params : (endInvocation s).params = s.params := rfl
@[simp] theorem endInvocation_elapsed : (endInvocation s).elapsed = s.elapsed := rfl
@[simp] theorem endInvocation_geo : (endInvocation s).geo = s.geo := rfl
@[simp] theorem endInvocation_ranges : (endInvocation s).ranges = s.ranges := rfl
@[simp] theorem endInvocation_ports : (endInvocation s).ports = s.ports := rfl
@[simp] theorem endInvocation_policy : (endInvocation s).policy = s.policy := rfl
@[simp] theorem endInvocation_banks : (endInvocation s).banks = s.banks := rfl
@[simp] theorem endInvocation_mem : (endInvocation s).mem = s.mem := rfl
@[simp] theorem endInvocation_queue : (endInvocation s).queue = s.queue := rfl
@[simp] theorem endInvocation_nextId : (endInvocation s).nextId = s.nextId := rfl
@[simp] theorem endInvocation_nextSeq : (endInvocation s).nextSeq = s.nextSeq := rfl
@[simp] theorem endInvocation_busLatch : (endInvocation s).busLatch = s.busLatch := rfl
@[simp] theorem endInvocation_cont : (endInvocation s).cont = none := rfl
@[simp] theorem endInvocation_pumping : (endInvocation s).pumping = s.pumping := rfl
@[simp] theorem endInvocation_cfgError : (endInvocation s).cfgError = s.cfgError := rfl
@[simp] theorem endInvocation_phase : (endInvocation s).phase = s.phase := rfl
@[simp] theorem endInvocation_ctx : (endInvocation s).ctx = .top := rfl
@[simp] theorem endInvocation_fault : (endInvocation s).fault = s.fault := rfl
@[simp] theorem endInvocation_trace : (endInvocation s).trace = s.trace := rfl
@[simp] theorem endInvocation_cmdCount : (endInvocation s).cmdCount = s.cmdCount := rfl
@[simp] theorem endInvocation_inbox : (endInvocation s).inbox = s.inbox := rfl
@[simp] theorem endInvocation_responses : (endInvocation s).responses = s.responses := rfl
@[simp] theorem endInvocation_saves : (endInvocation s).saves = s.saves := rfl
@[simp] theorem endInvocation_draws : (endInvocation s).draws = s.draws := rfl

end

/-! ## addPort -/

section
variable (u : Sel) (e : PortEntry) (s : State)

@[simp] theorem addPort_params : (addPort u e s).params = s.params := rfl
@[simp] theorem addPort_elapsed : (addPort u e s).elapsed = s.elapsed := rfl
@[simp] theorem addPort_geo : (addPort u e s).geo = s.geo := rfl
@[simp] theorem addPort_ranges : (addPort u e s).ranges = s.ranges := rfl
@[simp] theorem addPort_ports : (addPort u e s).ports = s.ports.set u.toNat (s.ports[u.toNat]'u.isLt ++ [e]) u.isLt := rfl
@[simp] theorem addPort_policy : (addPort u e s).policy = s.policy := rfl
@[simp] theorem addPort_banks : (addPort u e s).banks = s.banks := rfl
@[simp] theorem addPort_mem : (addPort u e s).mem = s.mem := rfl
@[simp] theorem addPort_queue : (addPort u e s).queue = s.queue := rfl
@[simp] theorem addPort_nextId : (addPort u e s).nextId = s.nextId := rfl
@[simp] theorem addPort_nextSeq : (addPort u e s).nextSeq = s.nextSeq := rfl
@[simp] theorem addPort_busLatch : (addPort u e s).busLatch = s.busLatch := rfl
@[simp] theorem addPort_cont : (addPort u e s).cont = s.cont := rfl
@[simp] theorem addPort_pumping : (addPort u e s).pumping = s.pumping := rfl
@[simp] theorem addPort_cfgError : (addPort u e s).cfgError = s.cfgError := rfl
@[simp] theorem addPort_phase : (addPort u e s).phase = s.phase := rfl
@[simp] theorem addPort_ctx : (addPort u e s).ctx = s.ctx := rfl
@[simp] theorem addPort_fault : (addPort u e s).fault = s.fault := rfl
@[simp] theorem addPort_trace : (addPort u e s).trace = s.trace := rfl
@[simp] theorem addPort_cmdCount : (addPort u e s).cmdCount = s.cmdCount := rfl
@[simp] theorem addPort_inbox : (addPort u e s).inbox = s.inbox := rfl
@[simp] theorem addPort_responses : (addPort u e s).responses = s.responses := rfl
@[simp] theorem addPort_saves : (addPort u e s).saves = s.saves := rfl
@[simp] theorem addPort_draws : (addPort u e s).draws = s.draws := rfl

end

/-! ## setBank -/

section
variable (b : Nat) (k : Bank) (s : State)

@[simp] theorem setBank_params : (setBank b k s).params = s.params := rfl
@[simp] theorem setBank_elapsed : (setBank b k s).elapsed = s.elapsed := rfl
@[simp] theorem setBank_geo : (setBank b k s).geo = s.geo := rfl
@[simp] theorem setBank_ranges : (setBank b k s).ranges = s.ranges := rfl
@[simp] theorem setBank_ports : (setBank b k s).ports = s.ports := rfl
@[simp] theorem setBank_policy : (setBank b k s).policy = s.policy := rfl
@[simp] theorem setBank_banks : (setBank b k s).banks = s.banks.setIfInBounds b (some k) := rfl
@[simp] theorem setBank_mem : (setBank b k s).mem = s.mem := rfl
@[simp] theorem setBank_queue : (setBank b k s).queue = s.queue := rfl
@[simp] theorem setBank_nextId : (setBank b k s).nextId = s.nextId := rfl
@[simp] theorem setBank_nextSeq : (setBank b k s).nextSeq = s.nextSeq := rfl
@[simp] theorem setBank_busLatch : (setBank b k s).busLatch = s.busLatch := rfl
@[simp] theorem setBank_cont : (setBank b k s).cont = s.cont := rfl
@[simp] theorem setBank_pumping : (setBank b k s).pumping = s.pumping := rfl
@[simp] theorem setBank_cfgError : (setBank b k s).cfgError = s.cfgError := rfl
@[simp] theorem setBank_phase : (setBank b k s).phase = s.phase := rfl
@[simp] theorem setBank_ctx : (setBank b k s).ctx = s.ctx := rfl
@[simp] theorem setBank_fault : (setBank b k s).fault = s.fault := rfl
@[simp] theorem setBank_trace : (setBank b k s).trace = s.trace := rfl
@[simp] theorem setBank_cmdCount : (setBank b k s).cmdCount = s.cmdCount := rfl
@[simp] theorem setBank_inbox : (setBank b k s).inbox = s.inbox := rfl
@[simp] theorem setBank_responses : (setBank b k s).responses = s.responses := rfl
@[simp] theorem setBank_saves : (setBank b k s).saves = s.saves := rfl
@[simp] theorem setBank_draws : (setBank b k s).draws = s.draws := rfl

end

/-! ## createBank -/

section
variable (b : Sel) (n : Word16) (z : Word32) (s : State)

@[simp] theorem createBank_params : (createBank b n z s).params = s.params := rfl
@[simp] theorem createBank_elapsed : (createBank b n z s).elapsed = s.elapsed := rfl
@[simp] theorem createBank_geo : (createBank b n z s).geo = s.geo := rfl
@[simp] theorem createBank_ranges : (createBank b n z s).ranges = s.ranges := rfl
@[simp] theorem createBank_ports : (createBank b n z s).ports = s.ports := rfl
@[simp] theorem createBank_policy : (createBank b n z s).policy = s.policy := rfl
@[simp] theorem createBank_banks : (createBank b n z s).banks = s.banks.setIfInBounds b.toNat (some ⟨n, z, 0⟩) := rfl
@[simp] theorem createBank_mem : (createBank b n z s).mem = s.mem.clearSlot b.toNat := rfl
@[simp] theorem createBank_queue : (createBank b n z s).queue = s.queue := rfl
@[simp] theorem createBank_nextId : (createBank b n z s).nextId = s.nextId := rfl
@[simp] theorem createBank_nextSeq : (createBank b n z s).nextSeq = s.nextSeq := rfl
@[simp] theorem createBank_busLatch : (createBank b n z s).busLatch = s.busLatch := rfl
@[simp] theorem createBank_cont : (createBank b n z s).cont = s.cont := rfl
@[simp] theorem createBank_pumping : (createBank b n z s).pumping = s.pumping := rfl
@[simp] theorem createBank_cfgError : (createBank b n z s).cfgError = s.cfgError := rfl
@[simp] theorem createBank_phase : (createBank b n z s).phase = s.phase := rfl
@[simp] theorem createBank_ctx : (createBank b n z s).ctx = s.ctx := rfl
@[simp] theorem createBank_fault : (createBank b n z s).fault = s.fault := rfl
@[simp] theorem createBank_trace : (createBank b n z s).trace = s.trace := rfl
@[simp] theorem createBank_cmdCount : (createBank b n z s).cmdCount = s.cmdCount := rfl
@[simp] theorem createBank_inbox : (createBank b n z s).inbox = s.inbox := rfl
@[simp] theorem createBank_responses : (createBank b n z s).responses = s.responses := rfl
@[simp] theorem createBank_saves : (createBank b n z s).saves = s.saves := rfl
@[simp] theorem createBank_draws : (createBank b n z s).draws = s.draws := rfl

end

/-! ## addRange -/

section
variable (sp : Sel) (e : RangeEntry) (s : State) (d : Dir)

@[simp] theorem addRange_params : (addRange sp e s d).params = s.params := rfl
@[simp] theorem addRange_elapsed : (addRange sp e s d).elapsed = s.elapsed := rfl
@[simp] theorem addRange_geo : (addRange sp e s d).geo = s.geo := rfl
@[simp] theorem addRange_ports : (addRange sp e s d).ports = s.ports := rfl
@[simp] theorem addRange_policy : (addRange sp e s d).policy = s.policy := rfl
@[simp] theorem addRange_banks : (addRange sp e s d).banks = s.banks := rfl
@[simp] theorem addRange_mem : (addRange sp e s d).mem = s.mem := rfl
@[simp] theorem addRange_queue : (addRange sp e s d).queue = s.queue := rfl
@[simp] theorem addRange_nextId : (addRange sp e s d).nextId = s.nextId := rfl
@[simp] theorem addRange_nextSeq : (addRange sp e s d).nextSeq = s.nextSeq := rfl
@[simp] theorem addRange_busLatch : (addRange sp e s d).busLatch = s.busLatch := rfl
@[simp] theorem addRange_cont : (addRange sp e s d).cont = s.cont := rfl
@[simp] theorem addRange_pumping : (addRange sp e s d).pumping = s.pumping := rfl
@[simp] theorem addRange_cfgError : (addRange sp e s d).cfgError = s.cfgError := rfl
@[simp] theorem addRange_phase : (addRange sp e s d).phase = s.phase := rfl
@[simp] theorem addRange_ctx : (addRange sp e s d).ctx = s.ctx := rfl
@[simp] theorem addRange_fault : (addRange sp e s d).fault = s.fault := rfl
@[simp] theorem addRange_trace : (addRange sp e s d).trace = s.trace := rfl
@[simp] theorem addRange_cmdCount : (addRange sp e s d).cmdCount = s.cmdCount := rfl
@[simp] theorem addRange_inbox : (addRange sp e s d).inbox = s.inbox := rfl
@[simp] theorem addRange_responses : (addRange sp e s d).responses = s.responses := rfl
@[simp] theorem addRange_saves : (addRange sp e s d).saves = s.saves := rfl
@[simp] theorem addRange_draws : (addRange sp e s d).draws = s.draws := rfl

end

/-! ## pumpStart -/

section
variable (s : State)

@[simp] theorem pumpStart_params : (pumpStart s).params = s.params := rfl
@[simp] theorem pumpStart_elapsed : (pumpStart s).elapsed = s.elapsed := rfl
@[simp] theorem pumpStart_geo : (pumpStart s).geo = s.geo := rfl
@[simp] theorem pumpStart_ranges : (pumpStart s).ranges = s.ranges := rfl
@[simp] theorem pumpStart_ports : (pumpStart s).ports = s.ports := rfl
@[simp] theorem pumpStart_policy : (pumpStart s).policy = s.policy := rfl
@[simp] theorem pumpStart_banks : (pumpStart s).banks = s.banks := rfl
@[simp] theorem pumpStart_mem : (pumpStart s).mem = s.mem := rfl
@[simp] theorem pumpStart_queue : (pumpStart s).queue = s.queue.map (fun e => { e with defer := false }) := rfl
@[simp] theorem pumpStart_nextId : (pumpStart s).nextId = s.nextId := rfl
@[simp] theorem pumpStart_nextSeq : (pumpStart s).nextSeq = s.nextSeq := rfl
@[simp] theorem pumpStart_busLatch : (pumpStart s).busLatch = s.busLatch := rfl
@[simp] theorem pumpStart_cont : (pumpStart s).cont = s.cont := rfl
@[simp] theorem pumpStart_pumping : (pumpStart s).pumping = true := rfl
@[simp] theorem pumpStart_cfgError : (pumpStart s).cfgError = s.cfgError := rfl
@[simp] theorem pumpStart_phase : (pumpStart s).phase = s.phase := rfl
@[simp] theorem pumpStart_ctx : (pumpStart s).ctx = s.ctx := rfl
@[simp] theorem pumpStart_fault : (pumpStart s).fault = s.fault := rfl
@[simp] theorem pumpStart_trace : (pumpStart s).trace = s.trace := rfl
@[simp] theorem pumpStart_cmdCount : (pumpStart s).cmdCount = s.cmdCount := rfl
@[simp] theorem pumpStart_inbox : (pumpStart s).inbox = s.inbox := rfl
@[simp] theorem pumpStart_responses : (pumpStart s).responses = s.responses := rfl
@[simp] theorem pumpStart_saves : (pumpStart s).saves = s.saves := rfl
@[simp] theorem pumpStart_draws : (pumpStart s).draws = s.draws := rfl

end

/-! ## restoreState -/

section
variable (g : Snapshot) (s : State)

@[simp] theorem restoreState_params : (restoreState g s).params = s.params := rfl
@[simp] theorem restoreState_elapsed : (restoreState g s).elapsed = g.elapsed := rfl
@[simp] theorem restoreState_geo : (restoreState g s).geo = s.geo := rfl
@[simp] theorem restoreState_ranges : (restoreState g s).ranges = s.ranges := rfl
@[simp] theorem restoreState_ports : (restoreState g s).ports = s.ports := rfl
@[simp] theorem restoreState_policy : (restoreState g s).policy = s.policy := rfl
@[simp] theorem restoreState_mem : (restoreState g s).mem = g.mem := rfl
@[simp] theorem restoreState_queue : (restoreState g s).queue = g.queue.map (fun e => { e with defer := false }) := rfl
@[simp] theorem restoreState_nextId : (restoreState g s).nextId = g.nextId := rfl
@[simp] theorem restoreState_nextSeq : (restoreState g s).nextSeq = g.nextSeq := rfl
@[simp] theorem restoreState_busLatch : (restoreState g s).busLatch = restoredLatches s g := rfl
@[simp] theorem restoreState_cont : (restoreState g s).cont = s.cont := rfl
@[simp] theorem restoreState_pumping : (restoreState g s).pumping = s.pumping := rfl
@[simp] theorem restoreState_cfgError : (restoreState g s).cfgError = s.cfgError := rfl
@[simp] theorem restoreState_phase : (restoreState g s).phase = s.phase := rfl
@[simp] theorem restoreState_ctx : (restoreState g s).ctx = s.ctx := rfl
@[simp] theorem restoreState_fault : (restoreState g s).fault = s.fault := rfl
@[simp] theorem restoreState_trace : (restoreState g s).trace = s.trace := rfl
@[simp] theorem restoreState_cmdCount : (restoreState g s).cmdCount = s.cmdCount := rfl
@[simp] theorem restoreState_inbox : (restoreState g s).inbox = s.inbox := rfl
@[simp] theorem restoreState_responses : (restoreState g s).responses = s.responses := rfl
@[simp] theorem restoreState_saves : (restoreState g s).saves = s.saves := rfl
@[simp] theorem restoreState_draws : (restoreState g s).draws = s.draws := rfl

end

/-! ## serveSave -/

section
variable (s : State)

@[simp] theorem serveSave_params : (serveSave s).params = s.params := rfl
@[simp] theorem serveSave_elapsed : (serveSave s).elapsed = s.elapsed := rfl
@[simp] theorem serveSave_geo : (serveSave s).geo = s.geo := rfl
@[simp] theorem serveSave_ranges : (serveSave s).ranges = s.ranges := rfl
@[simp] theorem serveSave_ports : (serveSave s).ports = s.ports := rfl
@[simp] theorem serveSave_policy : (serveSave s).policy = s.policy := rfl
@[simp] theorem serveSave_banks : (serveSave s).banks = s.banks := rfl
@[simp] theorem serveSave_mem : (serveSave s).mem = s.mem := rfl
@[simp] theorem serveSave_queue : (serveSave s).queue = s.queue := rfl
@[simp] theorem serveSave_nextId : (serveSave s).nextId = s.nextId := rfl
@[simp] theorem serveSave_nextSeq : (serveSave s).nextSeq = s.nextSeq := rfl
@[simp] theorem serveSave_busLatch : (serveSave s).busLatch = s.busLatch := rfl
@[simp] theorem serveSave_cont : (serveSave s).cont = s.cont := rfl
@[simp] theorem serveSave_pumping : (serveSave s).pumping = s.pumping := rfl
@[simp] theorem serveSave_cfgError : (serveSave s).cfgError = s.cfgError := rfl
@[simp] theorem serveSave_phase : (serveSave s).phase = s.phase := rfl
@[simp] theorem serveSave_ctx : (serveSave s).ctx = s.ctx := rfl
@[simp] theorem serveSave_fault : (serveSave s).fault = s.fault := rfl
@[simp] theorem serveSave_trace : (serveSave s).trace = s.trace := rfl
@[simp] theorem serveSave_cmdCount : (serveSave s).cmdCount = s.cmdCount := rfl
@[simp] theorem serveSave_inbox : (serveSave s).inbox = s.inbox := rfl
@[simp] theorem serveSave_responses : (serveSave s).responses = s.responses := rfl
@[simp] theorem serveSave_saves : (serveSave s).saves = s.saves ++ [takeSnapshot s] := rfl
@[simp] theorem serveSave_draws : (serveSave s).draws = s.draws := rfl

end

end Sys2Proof.Machine
end

