-- ==== Sys2Proof/Laws/Bus.lean ====
section
/-! SUPPORT. The updates that depend on a parameter, field by field: the bus, the pick and the command count change only
the fields left out here. -/

namespace Sys2Proof.Machine

/-! ## driveBus -/

section
variable (sp : Sel) (v : Byte) (s : State)

@[simp] theorem driveBus_params : (driveBus sp v s).params = s.params := by unfold driveBus; split <;> rfl
@[simp] theorem driveBus_elapsed : (driveBus sp v s).elapsed = s.elapsed := by unfold driveBus; split <;> rfl
@[simp] theorem driveBus_geo : (driveBus sp v s).geo = s.geo := by unfold driveBus; split <;> rfl
@[simp] theorem driveBus_ranges : (driveBus sp v s).ranges = s.ranges := by unfold driveBus; split <;> rfl
@[simp] theorem driveBus_ports : (driveBus sp v s).ports = s.ports := by unfold driveBus; split <;> rfl
@[simp] theorem driveBus_policy : (driveBus sp v s).policy = s.policy := by unfold driveBus; split <;> rfl
@[simp] theorem driveBus_banks : (driveBus sp v s).banks = s.banks := by unfold driveBus; split <;> rfl
@[simp] theorem driveBus_mem : (driveBus sp v s).mem = s.mem := by unfold driveBus; split <;> rfl
@[simp] theorem driveBus_queue : (driveBus sp v s).queue = s.queue := by unfold driveBus; split <;> rfl
@[simp] theorem driveBus_nextId : (driveBus sp v s).nextId = s.nextId := by unfold driveBus; split <;> rfl
@[simp] theorem driveBus_nextSeq : (driveBus sp v s).nextSeq = s.nextSeq := by unfold driveBus; split <;> rfl
@[simp] theorem driveBus_cont : (driveBus sp v s).cont = s.cont := by unfold driveBus; split <;> rfl
@[simp] theorem driveBus_pumping : (driveBus sp v s).pumping = s.pumping := by unfold driveBus; split <;> rfl
@[simp] theorem driveBus_cfgError : (driveBus sp v s).cfgError = s.cfgError := by unfold driveBus; split <;> rfl
@[simp] theorem driveBus_phase : (driveBus sp v s).phase = s.phase := by unfold driveBus; split <;> rfl
@[simp] theorem driveBus_ctx : (driveBus sp v s).ctx = s.ctx := by unfold driveBus; split <;> rfl
@[simp] theorem driveBus_fault : (driveBus sp v s).fault = s.fault := by unfold driveBus; split <;> rfl
@[simp] theorem driveBus_trace : (driveBus sp v s).trace = s.trace := by unfold driveBus; split <;> rfl
@[simp] theorem driveBus_cmdCount : (driveBus sp v s).cmdCount = s.cmdCount := by unfold driveBus; split <;> rfl
@[simp] theorem driveBus_inbox : (driveBus sp v s).inbox = s.inbox := by unfold driveBus; split <;> rfl
@[simp] theorem driveBus_responses : (driveBus sp v s).responses = s.responses := by unfold driveBus; split <;> rfl
@[simp] theorem driveBus_saves : (driveBus sp v s).saves = s.saves := by unfold driveBus; split <;> rfl
@[simp] theorem driveBus_draws : (driveBus sp v s).draws = s.draws := by unfold driveBus; split <;> rfl

end

/-! ## finishWrite -/

section
variable (sp : Sel) (v : Byte) (s : State)

@[simp] theorem finishWrite_params : (finishWrite sp v s).params = s.params := by simp [finishWrite]
@[simp] theorem finishWrite_elapsed : (finishWrite sp v s).elapsed = s.elapsed := by simp [finishWrite]
@[simp] theorem finishWrite_geo : (finishWrite sp v s).geo = s.geo := by simp [finishWrite]
@[simp] theorem finishWrite_ranges : (finishWrite sp v s).ranges = s.ranges := by simp [finishWrite]
@[simp] theorem finishWrite_ports : (finishWrite sp v s).ports = s.ports := by simp [finishWrite]
@[simp] theorem finishWrite_policy : (finishWrite sp v s).policy = s.policy := by simp [finishWrite]
@[simp] theorem finishWrite_banks : (finishWrite sp v s).banks = s.banks := by simp [finishWrite]
@[simp] theorem finishWrite_mem : (finishWrite sp v s).mem = s.mem := by simp [finishWrite]
@[simp] theorem finishWrite_queue : (finishWrite sp v s).queue = s.queue := by simp [finishWrite]
@[simp] theorem finishWrite_nextId : (finishWrite sp v s).nextId = s.nextId := by simp [finishWrite]
@[simp] theorem finishWrite_nextSeq : (finishWrite sp v s).nextSeq = s.nextSeq := by simp [finishWrite]
@[simp] theorem finishWrite_cont : (finishWrite sp v s).cont = s.cont := by simp [finishWrite]
@[simp] theorem finishWrite_pumping : (finishWrite sp v s).pumping = s.pumping := by simp [finishWrite]
@[simp] theorem finishWrite_cfgError : (finishWrite sp v s).cfgError = s.cfgError := by simp [finishWrite]
@[simp] theorem finishWrite_phase : (finishWrite sp v s).phase = s.phase := by simp [finishWrite]
@[simp] theorem finishWrite_ctx : (finishWrite sp v s).ctx = s.ctx := by simp [finishWrite]
@[simp] theorem finishWrite_fault : (finishWrite sp v s).fault = s.fault := by simp [finishWrite]
@[simp] theorem finishWrite_trace : (finishWrite sp v s).trace = s.trace := by simp [finishWrite]
@[simp] theorem finishWrite_cmdCount : (finishWrite sp v s).cmdCount = s.cmdCount := by simp [finishWrite]
@[simp] theorem finishWrite_inbox : (finishWrite sp v s).inbox = s.inbox := by simp [finishWrite]
@[simp] theorem finishWrite_responses : (finishWrite sp v s).responses = s.responses := by simp [finishWrite]
@[simp] theorem finishWrite_saves : (finishWrite sp v s).saves = s.saves := by simp [finishWrite]
@[simp] theorem finishWrite_draws : (finishWrite sp v s).draws = s.draws := by simp [finishWrite]

end

/-! ## finishRead -/

section
variable (sp : Sel) (v : Byte) (s : State)

@[simp] theorem finishRead_params : (finishRead sp v s).params = s.params := by simp [finishRead]
@[simp] theorem finishRead_elapsed : (finishRead sp v s).elapsed = s.elapsed := by simp [finishRead]
@[simp] theorem finishRead_geo : (finishRead sp v s).geo = s.geo := by simp [finishRead]
@[simp] theorem finishRead_ranges : (finishRead sp v s).ranges = s.ranges := by simp [finishRead]
@[simp] theorem finishRead_ports : (finishRead sp v s).ports = s.ports := by simp [finishRead]
@[simp] theorem finishRead_policy : (finishRead sp v s).policy = s.policy := by simp [finishRead]
@[simp] theorem finishRead_banks : (finishRead sp v s).banks = s.banks := by simp [finishRead]
@[simp] theorem finishRead_mem : (finishRead sp v s).mem = s.mem := by simp [finishRead]
@[simp] theorem finishRead_queue : (finishRead sp v s).queue = s.queue := by simp [finishRead]
@[simp] theorem finishRead_nextId : (finishRead sp v s).nextId = s.nextId := by simp [finishRead]
@[simp] theorem finishRead_nextSeq : (finishRead sp v s).nextSeq = s.nextSeq := by simp [finishRead]
@[simp] theorem finishRead_cont : (finishRead sp v s).cont = s.cont := by simp [finishRead]
@[simp] theorem finishRead_pumping : (finishRead sp v s).pumping = s.pumping := by simp [finishRead]
@[simp] theorem finishRead_cfgError : (finishRead sp v s).cfgError = s.cfgError := by simp [finishRead]
@[simp] theorem finishRead_phase : (finishRead sp v s).phase = s.phase := by simp [finishRead]
@[simp] theorem finishRead_ctx : (finishRead sp v s).ctx = s.ctx := by simp [finishRead]
@[simp] theorem finishRead_fault : (finishRead sp v s).fault = s.fault := by simp [finishRead]
@[simp] theorem finishRead_trace : (finishRead sp v s).trace = s.trace := by simp [finishRead]
@[simp] theorem finishRead_cmdCount : (finishRead sp v s).cmdCount = s.cmdCount := by simp [finishRead]
@[simp] theorem finishRead_inbox : (finishRead sp v s).inbox = s.inbox := by simp [finishRead]
@[simp] theorem finishRead_saves : (finishRead sp v s).saves = s.saves := by simp [finishRead]
@[simp] theorem finishRead_draws : (finishRead sp v s).draws = s.draws := by simp [finishRead]

end

@[simp] theorem finishRead_responses (sp : Sel) (v : Byte) (s : State) :
    (finishRead sp v s).responses = s.responses ++ [v.setWidth 64] := by simp [finishRead]

/-! ## openBus -/

section
variable (sp : Sel) (s : State)

@[simp] theorem openBus_params : ((openBus sp s).2).params = s.params := by unfold openBus; split <;> rfl
@[simp] theorem openBus_elapsed : ((openBus sp s).2).elapsed = s.elapsed := by unfold openBus; split <;> rfl
@[simp] theorem openBus_geo : ((openBus sp s).2).geo = s.geo := by unfold openBus; split <;> rfl
@[simp] theorem openBus_ranges : ((openBus sp s).2).ranges = s.ranges := by unfold openBus; split <;> rfl
@[simp] theorem openBus_ports : ((openBus sp s).2).ports = s.ports := by unfold openBus; split <;> rfl
@[simp] theorem openBus_policy : ((openBus sp s).2).policy = s.policy := by unfold openBus; split <;> rfl
@[simp] theorem openBus_banks : ((openBus sp s).2).banks = s.banks := by unfold openBus; split <;> rfl
@[simp] theorem openBus_mem : ((openBus sp s).2).mem = s.mem := by unfold openBus; split <;> rfl
@[simp] theorem openBus_queue : ((openBus sp s).2).queue = s.queue := by unfold openBus; split <;> rfl
@[simp] theorem openBus_nextId : ((openBus sp s).2).nextId = s.nextId := by unfold openBus; split <;> rfl
@[simp] theorem openBus_nextSeq : ((openBus sp s).2).nextSeq = s.nextSeq := by unfold openBus; split <;> rfl
@[simp] theorem openBus_busLatch : ((openBus sp s).2).busLatch = s.busLatch := by unfold openBus; split <;> rfl
@[simp] theorem openBus_cont : ((openBus sp s).2).cont = s.cont := by unfold openBus; split <;> rfl
@[simp] theorem openBus_pumping : ((openBus sp s).2).pumping = s.pumping := by unfold openBus; split <;> rfl
@[simp] theorem openBus_cfgError : ((openBus sp s).2).cfgError = s.cfgError := by unfold openBus; split <;> rfl
@[simp] theorem openBus_phase : ((openBus sp s).2).phase = s.phase := by unfold openBus; split <;> rfl
@[simp] theorem openBus_ctx : ((openBus sp s).2).ctx = s.ctx := by unfold openBus; split <;> rfl
@[simp] theorem openBus_fault : ((openBus sp s).2).fault = s.fault := by unfold openBus; split <;> rfl
@[simp] theorem openBus_trace : ((openBus sp s).2).trace = s.trace := by unfold openBus; split <;> rfl
@[simp] theorem openBus_cmdCount : ((openBus sp s).2).cmdCount = s.cmdCount := by unfold openBus; split <;> rfl
@[simp] theorem openBus_inbox : ((openBus sp s).2).inbox = s.inbox := by unfold openBus; split <;> rfl
@[simp] theorem openBus_responses : ((openBus sp s).2).responses = s.responses := by unfold openBus; split <;> rfl
@[simp] theorem openBus_saves : ((openBus sp s).2).saves = s.saves := by unfold openBus; split <;> rfl

end

/-! ## finishOpenBus -/

section
variable (sp : Sel) (s : State)

@[simp] theorem finishOpenBus_params : (finishOpenBus sp s).params = s.params := by simp [finishOpenBus]
@[simp] theorem finishOpenBus_elapsed : (finishOpenBus sp s).elapsed = s.elapsed := by simp [finishOpenBus]
@[simp] theorem finishOpenBus_geo : (finishOpenBus sp s).geo = s.geo := by simp [finishOpenBus]
@[simp] theorem finishOpenBus_ranges : (finishOpenBus sp s).ranges = s.ranges := by simp [finishOpenBus]
@[simp] theorem finishOpenBus_ports : (finishOpenBus sp s).ports = s.ports := by simp [finishOpenBus]
@[simp] theorem finishOpenBus_policy : (finishOpenBus sp s).policy = s.policy := by simp [finishOpenBus]
@[simp] theorem finishOpenBus_banks : (finishOpenBus sp s).banks = s.banks := by simp [finishOpenBus]
@[simp] theorem finishOpenBus_mem : (finishOpenBus sp s).mem = s.mem := by simp [finishOpenBus]
@[simp] theorem finishOpenBus_queue : (finishOpenBus sp s).queue = s.queue := by simp [finishOpenBus]
@[simp] theorem finishOpenBus_nextId : (finishOpenBus sp s).nextId = s.nextId := by simp [finishOpenBus]
@[simp] theorem finishOpenBus_nextSeq : (finishOpenBus sp s).nextSeq = s.nextSeq := by simp [finishOpenBus]
@[simp] theorem finishOpenBus_cont : (finishOpenBus sp s).cont = s.cont := by simp [finishOpenBus]
@[simp] theorem finishOpenBus_pumping : (finishOpenBus sp s).pumping = s.pumping := by simp [finishOpenBus]
@[simp] theorem finishOpenBus_cfgError : (finishOpenBus sp s).cfgError = s.cfgError := by simp [finishOpenBus]
@[simp] theorem finishOpenBus_phase : (finishOpenBus sp s).phase = s.phase := by simp [finishOpenBus]
@[simp] theorem finishOpenBus_ctx : (finishOpenBus sp s).ctx = s.ctx := by simp [finishOpenBus]
@[simp] theorem finishOpenBus_fault : (finishOpenBus sp s).fault = s.fault := by simp [finishOpenBus]
@[simp] theorem finishOpenBus_trace : (finishOpenBus sp s).trace = s.trace := by simp [finishOpenBus]
@[simp] theorem finishOpenBus_cmdCount : (finishOpenBus sp s).cmdCount = s.cmdCount := by simp [finishOpenBus]
@[simp] theorem finishOpenBus_inbox : (finishOpenBus sp s).inbox = s.inbox := by simp [finishOpenBus]
@[simp] theorem finishOpenBus_saves : (finishOpenBus sp s).saves = s.saves := by simp [finishOpenBus]

end

/-! ## afterPick -/

section
variable (s : State)

@[simp] theorem afterPick_params : (afterPick s).params = s.params := by unfold afterPick; split <;> rfl
@[simp] theorem afterPick_elapsed : (afterPick s).elapsed = s.elapsed := by unfold afterPick; split <;> rfl
@[simp] theorem afterPick_geo : (afterPick s).geo = s.geo := by unfold afterPick; split <;> rfl
@[simp] theorem afterPick_ranges : (afterPick s).ranges = s.ranges := by unfold afterPick; split <;> rfl
@[simp] theorem afterPick_ports : (afterPick s).ports = s.ports := by unfold afterPick; split <;> rfl
@[simp] theorem afterPick_policy : (afterPick s).policy = s.policy := by unfold afterPick; split <;> rfl
@[simp] theorem afterPick_banks : (afterPick s).banks = s.banks := by unfold afterPick; split <;> rfl
@[simp] theorem afterPick_mem : (afterPick s).mem = s.mem := by unfold afterPick; split <;> rfl
@[simp] theorem afterPick_queue : (afterPick s).queue = s.queue := by unfold afterPick; split <;> rfl
@[simp] theorem afterPick_nextId : (afterPick s).nextId = s.nextId := by unfold afterPick; split <;> rfl
@[simp] theorem afterPick_nextSeq : (afterPick s).nextSeq = s.nextSeq := by unfold afterPick; split <;> rfl
@[simp] theorem afterPick_busLatch : (afterPick s).busLatch = s.busLatch := by unfold afterPick; split <;> rfl
@[simp] theorem afterPick_cont : (afterPick s).cont = s.cont := by unfold afterPick; split <;> rfl
@[simp] theorem afterPick_pumping : (afterPick s).pumping = s.pumping := by unfold afterPick; split <;> rfl
@[simp] theorem afterPick_cfgError : (afterPick s).cfgError = s.cfgError := by unfold afterPick; split <;> rfl
@[simp] theorem afterPick_phase : (afterPick s).phase = s.phase := by unfold afterPick; split <;> rfl
@[simp] theorem afterPick_ctx : (afterPick s).ctx = s.ctx := by unfold afterPick; split <;> rfl
@[simp] theorem afterPick_fault : (afterPick s).fault = s.fault := by unfold afterPick; split <;> rfl
@[simp] theorem afterPick_trace : (afterPick s).trace = s.trace := by unfold afterPick; split <;> rfl
@[simp] theorem afterPick_cmdCount : (afterPick s).cmdCount = s.cmdCount := by unfold afterPick; split <;> rfl
@[simp] theorem afterPick_inbox : (afterPick s).inbox = s.inbox := by unfold afterPick; split <;> rfl
@[simp] theorem afterPick_responses : (afterPick s).responses = s.responses := by unfold afterPick; split <;> rfl
@[simp] theorem afterPick_saves : (afterPick s).saves = s.saves := by unfold afterPick; split <;> rfl

end

/-! ## countCommand -/

section
variable (s : State)

@[simp] theorem countCommand_params : (countCommand s).params = s.params := by unfold countCommand; split <;> rfl
@[simp] theorem countCommand_elapsed : (countCommand s).elapsed = s.elapsed := by unfold countCommand; split <;> rfl
@[simp] theorem countCommand_geo : (countCommand s).geo = s.geo := by unfold countCommand; split <;> rfl
@[simp] theorem countCommand_ranges : (countCommand s).ranges = s.ranges := by unfold countCommand; split <;> rfl
@[simp] theorem countCommand_ports : (countCommand s).ports = s.ports := by unfold countCommand; split <;> rfl
@[simp] theorem countCommand_policy : (countCommand s).policy = s.policy := by unfold countCommand; split <;> rfl
@[simp] theorem countCommand_banks : (countCommand s).banks = s.banks := by unfold countCommand; split <;> rfl
@[simp] theorem countCommand_mem : (countCommand s).mem = s.mem := by unfold countCommand; split <;> rfl
@[simp] theorem countCommand_queue : (countCommand s).queue = s.queue := by unfold countCommand; split <;> rfl
@[simp] theorem countCommand_nextId : (countCommand s).nextId = s.nextId := by unfold countCommand; split <;> rfl
@[simp] theorem countCommand_nextSeq : (countCommand s).nextSeq = s.nextSeq := by unfold countCommand; split <;> rfl
@[simp] theorem countCommand_busLatch : (countCommand s).busLatch = s.busLatch := by unfold countCommand; split <;> rfl
@[simp] theorem countCommand_cont : (countCommand s).cont = s.cont := by unfold countCommand; split <;> rfl
@[simp] theorem countCommand_pumping : (countCommand s).pumping = s.pumping := by unfold countCommand; split <;> rfl
@[simp] theorem countCommand_cfgError : (countCommand s).cfgError = s.cfgError := by unfold countCommand; split <;> rfl
@[simp] theorem countCommand_phase : (countCommand s).phase = s.phase := by unfold countCommand; split <;> rfl
@[simp] theorem countCommand_ctx : (countCommand s).ctx = s.ctx := by unfold countCommand; split <;> rfl
@[simp] theorem countCommand_fault : (countCommand s).fault = s.fault := by unfold countCommand; split <;> rfl
@[simp] theorem countCommand_trace : (countCommand s).trace = s.trace := by unfold countCommand; split <;> rfl
@[simp] theorem countCommand_inbox : (countCommand s).inbox = s.inbox := by unfold countCommand; split <;> rfl
@[simp] theorem countCommand_responses : (countCommand s).responses = s.responses := by unfold countCommand; split <;> rfl
@[simp] theorem countCommand_saves : (countCommand s).saves = s.saves := by unfold countCommand; split <;> rfl

end

end Sys2Proof.Machine
end

