-- ==== Sys2Proof/Laws/Invariant.lean ====
section
/-! SUPPORT. What the invariant does not look at: the parts of a good state that may change freely, and that the legality
of an entry sees a slot's N and S alone. -/

namespace Sys2Proof.Machine

/-- Two states whose slots have the same N and S. -/
def SameShape (s t : State) : Prop :=
  ∀ b, (bankAt t b).map (fun k => (k.n, k.size)) = (bankAt s b).map (fun k => (k.n, k.size))

theorem SameShape.some {s t : State} (h : SameShape s t) {b : Nat} {k : Bank} (hk : bankAt s b = some k) :
    ∃ k', bankAt t b = some k' ∧ k'.n = k.n ∧ k'.size = k.size := by
  have := h b
  rw [hk] at this
  cases hk' : bankAt t b with
  | none => simp [hk'] at this
  | some k' => exact ⟨k', rfl, by simpa [hk'] using this⟩

theorem SameShape.isSome {s t : State} (h : SameShape s t) {b : Nat} (hb : (bankAt s b).isSome) :
    (bankAt t b).isSome := by
  obtain ⟨k, hk⟩ := Option.isSome_iff_exists.1 hb
  obtain ⟨k', hk', -⟩ := h.some hk
  simp [hk']

theorem TargetLegal.transfer {s t : State} {d : Dir} {tk : TKind} {tid : Word16} {size : Nat}
    (hp : t.params = s.params) (hb : SameShape s t) (h : TargetLegal s d tk tid size) :
    TargetLegal t d tk tid size := by
  cases tk with
  | device => trivial
  | bank =>
    obtain ⟨k, hk, hs⟩ := h
    obtain ⟨k', hk', -, hs'⟩ := hb.some hk
    exact ⟨k', hk', by rw [hs']; exact hs⟩
  | ports => simpa only [TargetLegal, hp] using h
  | banksel => exact ⟨h.1, hb.isSome h.2⟩

theorem RangeLegal.transfer {s t : State} {sp : Sel} {d : Dir} {e : RangeEntry} (hp : t.params = s.params)
    (hb : SameShape s t) (h : RangeLegal s sp d e) : RangeLegal t sp d e := by
  have haw : spaceAw t sp = spaceAw s sp := by simp only [spaceAw, hp]
  exact ⟨h.ordered, haw ▸ h.inSpace, haw ▸ h.maskInSpace, h.fold, h.target.transfer hp hb⟩

theorem PortLegal.transfer {s t : State} {e : PortEntry} (hb : SameShape s t) (h : PortLegal s e) :
    PortLegal t e := by
  rcases h with h | ⟨h1, h2, h3⟩
  · exact .inl h
  · exact .inr ⟨h1, h2, hb.isSome h3⟩

/-- The invariant says nothing of the policies, the latches, the trace, the command count, the interface or the count of
draws. -/
theorem Inv.outside {s : State} (h : Inv s) (policy : Vector Policy 16) (busLatch : Vector Byte 16)
    (trace : List TraceRec) (cmdCount : Word64) (inbox : List Input) (responses : List Word64)
    (saves : List Snapshot) (draws : Nat) :
    Inv { s with
      policy := policy, busLatch := busLatch, trace := trace, cmdCount := cmdCount, inbox := inbox
      responses := responses, saves := saves, draws := draws } where
  params := h.params
  geoLegal := h.geoLegal
  geoSet := h.geoSet
  ranges := fun sp d e he => RangeLegal.transfer (s := s) rfl (fun _ => rfl) (h.ranges sp d e he)
  overrides := h.overrides
  rangeCap := h.rangeCap
  rangeUnused := h.rangeUnused
  ports := fun u es hes => ⟨fun e he => PortLegal.transfer (s := s) (fun _ => rfl) ((h.ports u es hes).1 e he),
    (h.ports u es hes).2⟩
  banks := fun b k hk => ⟨(h.banks b k hk).exists_, (h.banks b k hk).buffers, (h.banks b k hk).size_pos,
    (h.banks b k hk).size_le, (h.banks b k hk).selected⟩
  queue := h.queue
  mem := h.mem
  memCells := h.memCells
  ctxTop := h.ctxTop
  ctxCallback := h.ctxCallback
  contLegal := fun k hk => by
    have := h.contLegal k hk
    cases k <;> exact this
  ctxPhase := h.ctxPhase
  pump := h.pump
  configTime := h.configTime
  cfgError := h.cfgError
  fault := h.fault

/-- A queue that meets the snapshot's conditions may replace the queue of a good state. -/
theorem Inv.withQueue {s : State} (h : Inv s) (queue : List Event) (nextId : Word32) (nextSeq : Word64)
    (hq : queueValid s.params.maxEvents queue nextId nextSeq = true) :
    Inv { s with queue := queue, nextId := nextId, nextSeq := nextSeq } where
  params := h.params
  geoLegal := h.geoLegal
  geoSet := h.geoSet
  ranges := fun sp d e he => RangeLegal.transfer (s := s) rfl (fun _ => rfl) (h.ranges sp d e he)
  overrides := h.overrides
  rangeCap := h.rangeCap
  rangeUnused := h.rangeUnused
  ports := fun u es hes => ⟨fun e he => PortLegal.transfer (s := s) (fun _ => rfl) ((h.ports u es hes).1 e he),
    (h.ports u es hes).2⟩
  banks := fun b k hk => ⟨(h.banks b k hk).exists_, (h.banks b k hk).buffers, (h.banks b k hk).size_pos,
    (h.banks b k hk).size_le, (h.banks b k hk).selected⟩
  queue := hq
  mem := h.mem
  memCells := h.memCells
  ctxTop := h.ctxTop
  ctxCallback := h.ctxCallback
  contLegal := fun k hk => by
    have := h.contLegal k hk
    cases k <;> exact this
  ctxPhase := h.ctxPhase
  pump := h.pump
  configTime := h.configTime
  cfgError := h.cfgError
  fault := h.fault

end Sys2Proof.Machine
end

