-- ==== Sys2Proof/Laws/Memory.lean ====
section
/-! SUPPORT. The laws of the bank memory: a read after a write, a read elsewhere, the canonical form kept by every
operation, and different cells having different keys. -/

namespace Sys2Proof.Machine

variable {init : BankInit} {m : Memory} {key key' : Nat} {v : Byte}

theorem Memory.wf_iff :
    Memory.wf init m = true ↔
      (m.Pairwise fun c c' => c.1 < c'.1) ∧ ∀ c ∈ m, initialCell init c.1 ≠ some c.2 := by
  simp [Memory.wf]

@[simp] theorem Memory.wf_nil : Memory.wf init [] = true := rfl

theorem Memory.lookup_none_of_lt (h : ∀ c ∈ m, key < c.1) : Memory.lookup m key = none := by
  induction m with
  | nil => rfl
  | cons c m ih =>
    have hc := h c (by simp)
    rw [Memory.lookup, if_neg (by omega)]
    exact ih fun c' hc' => h c' (by simp [hc'])

/-- A write leaves every other key alone. -/
theorem Memory.lookup_write_other (h : key' ≠ key) :
    Memory.lookup (Memory.write init m key v) key' = Memory.lookup m key' := by
  induction m with
  | nil => by_cases hi : initialCell init key = some v <;> simp [Memory.write, Memory.lookup, hi, h.symm]
  | cons c m ih =>
    rw [Memory.write]
    split_ifs with h1 h2 h3 h4
    · rfl
    · simp [Memory.lookup, h.symm]
    · rw [Memory.lookup, if_neg (by omega)]
    · rw [Memory.lookup, if_neg (by simpa using h.symm), Memory.lookup, if_neg (by omega)]
    · simp only [Memory.lookup]; split_ifs <;> simp [ih]

theorem Memory.read_write_other (h : key' ≠ key) :
    Memory.read init (Memory.write init m key v) key' = Memory.read init m key' := by
  simp [Memory.read, Memory.lookup_write_other h]

theorem Memory.mem_write {c : Host.Cell} (h : c ∈ Memory.write init m key v) :
    c ∈ m ∨ (c = (key, v) ∧ initialCell init key ≠ some v) := by
  induction m with
  | nil => by_cases hi : initialCell init key = some v <;> simp_all [Memory.write]
  | cons x m ih =>
    rw [Memory.write] at h
    split_ifs at h with h1 h2 h3 h4
    · exact .inl h
    · rcases List.mem_cons.1 h with rfl | h
      · exact .inr ⟨rfl, h2⟩
      · exact .inl h
    · exact .inl (List.mem_cons_of_mem _ h)
    · rcases List.mem_cons.1 h with rfl | h
      · exact .inr ⟨rfl, h4⟩
      · exact .inl (List.mem_cons_of_mem _ h)
    · rcases List.mem_cons.1 h with rfl | h
      · exact .inl (by simp)
      · exact (ih h).imp_left (List.mem_cons_of_mem _)

/-- A write keeps the canonical form. -/
theorem Memory.write_wf (h : Memory.wf init m = true) : Memory.wf init (Memory.write init m key v) = true := by
  rw [Memory.wf_iff] at h ⊢
  refine ⟨?_, ?_⟩
  · obtain ⟨hp, -⟩ := h
    induction m with
    | nil => by_cases hi : initialCell init key = some v <;> simp [Memory.write, hi]
    | cons x m ih =>
      obtain ⟨hx, hm⟩ := List.pairwise_cons.1 hp
      rw [Memory.write]
      split_ifs with h1 h2 h3 h4
      · exact hp
      · refine List.pairwise_cons.2 ⟨fun c hc => ?_, hp⟩
        rcases List.mem_cons.1 hc with rfl | hc
        · exact h1
        · exact lt_trans h1 (hx c hc)
      · exact hm
      · exact List.pairwise_cons.2 ⟨fun c hc => h3 ▸ hx c hc, hm⟩
      · refine List.pairwise_cons.2 ⟨fun c hc => ?_, ih hm⟩
        rcases Memory.mem_write hc with hc | ⟨rfl, -⟩
        · exact hx c hc
        · simp only; omega
  · intro c hc
    rcases Memory.mem_write hc with hc | ⟨rfl, hne⟩
    · exact h.2 c hc
    · exact hne

/-- A read after a write to the same key gives the byte written. -/
theorem Memory.read_write_same (h : Memory.wf init m = true) :
    Memory.read init (Memory.write init m key v) key = some v := by
  obtain ⟨hp, -⟩ := Memory.wf_iff.1 h
  clear h
  induction m with
  | nil => by_cases hi : initialCell init key = some v <;> simp [Memory.write, Memory.read, Memory.lookup, hi]
  | cons x m ih =>
    obtain ⟨hx, hm⟩ := List.pairwise_cons.1 hp
    rw [Memory.write]
    split_ifs with h1 h2 h3 h4
    · rw [Memory.read, Memory.lookup_none_of_lt]
      · exact h2
      · intro c hc
        rcases List.mem_cons.1 hc with rfl | hc
        · exact h1
        · exact lt_trans h1 (hx c hc)
    · simp [Memory.read, Memory.lookup]
    · subst h3
      rw [Memory.read, Memory.lookup_none_of_lt hx]
      assumption
    · simp [Memory.read, Memory.lookup]
    · rw [Memory.read, Memory.lookup, if_neg (fun e => h3 e.symm)]
      exact ih hm

theorem Memory.clearSlot_wf {b : Nat} (h : Memory.wf init m = true) : Memory.wf init (m.clearSlot b) = true := by
  rw [Memory.wf_iff] at h ⊢
  exact ⟨h.1.filter _, fun c hc => h.2 c (List.mem_filter.1 hc).1⟩

theorem Memory.lookup_clearSlot {b : Nat} :
    Memory.lookup (m.clearSlot b) key = if keySlot key = b then none else Memory.lookup m key := by
  induction m with
  | nil => simp [Memory.clearSlot, Memory.lookup]
  | cons c m ih =>
    have hc : Memory.clearSlot (c :: m) b =
        if keySlot c.1 = b then Memory.clearSlot m b else c :: Memory.clearSlot m b := by
      by_cases h : keySlot c.1 = b <;> simp [Memory.clearSlot, h]
    rw [hc]
    by_cases h : keySlot c.1 = b
    · rw [if_pos h, ih, Memory.lookup]
      by_cases hk : c.1 = key
      · rw [if_pos (hk ▸ h), if_pos (hk ▸ h)]
      · rw [if_neg hk]
    · rw [if_neg h, Memory.lookup, Memory.lookup, ih]
      by_cases hk : c.1 = key
      · rw [if_pos hk, if_pos hk, if_neg (hk ▸ h)]
      · rw [if_neg hk, if_neg hk]

/-- After clearSlot every cell of the slot holds its initial content and every other cell what it held. -/
theorem Memory.read_clearSlot {b : Nat} :
    Memory.read init (m.clearSlot b) key =
      if keySlot key = b then initialCell init key else Memory.read init m key := by
  simp only [Memory.read, Memory.lookup_clearSlot]
  split_ifs <;> rfl

theorem keySlot_cellKey (b : Nat) (i : Word16) (off : Word32) : keySlot (cellKey b i off) = b := by
  have := i.isLt
  have := off.isLt
  simp only [keySlot, cellKey]
  omega

/-- Different cells have different keys. -/
theorem cellKey_inj {b b' : Nat} {i i' : Word16} {off off' : Word32} :
    cellKey b i off = cellKey b' i' off' ↔ b = b' ∧ i = i' ∧ off = off' := by
  constructor
  · intro h
    have := i.isLt
    have := i'.isLt
    have := off.isLt
    have := off'.isLt
    simp only [cellKey] at h
    refine ⟨by omega, BitVec.eq_of_toNat_eq (by omega), BitVec.eq_of_toNat_eq (by omega)⟩
  · rintro ⟨rfl, rfl, rfl⟩
    rfl

/-- The memory after reset lists nothing, so it has the canonical form. -/
theorem resetWith_mem_wf (p : Params) : Memory.wf p.bankInit (State.resetWith p).mem = true := rfl

end Sys2Proof.Machine
end

