-- ==== Sys2Proof/Laws/Operands.lean ====
section
/-! SUPPORT. What a sweep over address bits reaches, and the lookup of 20_memory.md R65 as a search. -/

namespace Sys2Proof.Machine

/-- Run n address bits, bit k being a k. -/
def runBits {σ : Type} (next : Nat → Bool → σ → σ) (a : Nat → Bool) : Nat → σ → σ
  | 0, c => c
  | k + 1, c => next k (a k) (runBits next a k c)

theorem runBits_congr {σ : Type} {next : Nat → Bool → σ → σ} {a a' : Nat → Bool} {n : Nat} {c : σ}
    (h : ∀ k < n, a k = a' k) : runBits next a n c = runBits next a' n c := by
  induction n with
  | zero => rfl
  | succ n ih => rw [runBits, runBits, h n (by omega), ih fun k hk => h k (by omega)]

/-- A sweep reaches exactly the states some choice of the free bits leads to. -/
theorem mem_sweep {σ : Type} [DecidableEq σ] {next : Nat → Bool → σ → σ} {free : Nat → Bool} {n : Nat}
    {S : List σ} {t : σ} :
    t ∈ sweep next free n S ↔
      ∃ c ∈ S, ∃ a : Nat → Bool, (∀ k, a k = true → free k = true) ∧ t = runBits next a n c := by
  induction n generalizing t with
  | zero =>
    constructor
    · exact fun h => ⟨t, h, fun _ => false, by simp, rfl⟩
    · rintro ⟨c, hc, a, -, rfl⟩
      exact hc
  | succ n ih =>
    simp only [sweep, List.mem_eraseDups, List.mem_append, List.mem_map]
    constructor
    · rintro (⟨u, hu, rfl⟩ | hu)
      · obtain ⟨c, hc, a, ha, rfl⟩ := ih.1 hu
        refine ⟨c, hc, fun k => if k = n then false else a k, fun k hk => ha k ?_, ?_⟩
        · by_contra h
          simp_all
        · rw [runBits, runBits_congr (a' := a) fun k hk => if_neg (by omega)]
          simp
      · by_cases hf : free n = true
        · rw [if_pos hf] at hu
          obtain ⟨u, hm, rfl⟩ := List.mem_map.1 hu
          obtain ⟨c, hc, a, ha, rfl⟩ := ih.1 hm
          refine ⟨c, hc, fun k => if k = n then true else a k, fun k hk => ?_, ?_⟩
          · by_cases h : k = n
            · exact h ▸ hf
            · exact ha k (by simpa [h] using hk)
          · rw [runBits, runBits_congr (a' := a) fun k hk => if_neg (by omega)]
            simp
        · simp [hf] at hu
    · rintro ⟨c, hc, a, ha, rfl⟩
      have hmem : runBits next a n c ∈ sweep next free n S := ih.2 ⟨c, hc, a, ha, rfl⟩
      cases h : a n
      · exact .inl ⟨_, hmem, by rw [runBits, h]⟩
      · refine .inr ?_
        rw [if_pos (ha n h)]
        exact List.mem_map.2 ⟨_, hmem, by rw [runBits, h]⟩

/-- What the lookup finds: an entry of the table whose decoded set holds the address. -/
theorem lookup_some {s : State} {sp : Sel} {d : Dir} {a : Word32} {e : RangeEntry} (h : lookup s sp d a = some e) :
    e ∈ rangeTable s sp d ∧ covers (spaceAw s sp) e a = true := by
  rw [lookup] at h
  exact ⟨by simpa using List.mem_of_find?_eq_some h,
    List.find?_some (p := fun e => covers (spaceAw s sp) e a) h⟩

end Sys2Proof.Machine
end

