-- ==== Sys2Proof/Laws/Operations.lean ====
section
/-! SUPPORT. One lemma per shared operation: everything it can answer. The proofs cite these instead of unfolding the
operation. -/

namespace Sys2Proof.Machine

/-! ## Phases and errors -/

theorem halted_iff {s : State} : s.halted = true ↔ s.phase = .failed ∨ s.phase = .faulted := by
  simp [State.halted]

theorem inPhase_of_mem {ps : List Phase} {s : State} {body : Result} (h : s.halted = false) (hp : s.phase ∈ ps) :
    inPhase ps s body = body := by
  simp [inPhase, h, hp]

theorem inPhase_of_not_mem {ps : List Phase} {s : State} {body : Result} (h : s.halted = false)
    (hp : s.phase ∉ ps) : inPhase ps s body = raiseFault .phase s := by
  simp [inPhase, h, hp]

theorem inPhase_of_halted {ps : List Phase} {s : State} {body : Result} (h : s.halted = true) :
    inPhase ps s body = .fault .halted := by
  simp [inPhase, h]

/-- The three ways a phase check ends. -/
theorem inPhase_cases {ps : List Phase} {s : State} {body r : Result} (h : inPhase ps s body = r) :
    (s.halted = true ∧ r = .fault .halted) ∨
    (s.halted = false ∧ s.phase ∉ ps ∧ r = raiseFault .phase s) ∨
    (s.halted = false ∧ s.phase ∈ ps ∧ r = body) := by
  unfold inPhase at h
  split_ifs at h with h1 h2
  · exact .inl ⟨h1, h.symm⟩
  · exact .inr (.inr ⟨by simpa using h1, h2, h.symm⟩)
  · exact .inr (.inl ⟨by simpa using h1, h2, h.symm⟩)

/-- What a raised fault leaves behind (60_exceptions.md R326). -/
theorem raiseFault_next {c : FaultCode} {s t : State} (h : raiseFault c s = .next t) :
    t = { s with
      fault := some ⟨c, currentIndex s⟩, trace := s.trace ++ [.faultRec c], phase := .faulted } := by
  cases h
  rfl

/-- What a ConfigError leaves behind (60_exceptions.md R323). -/
theorem raiseConfig_next {k : CfgKind} {i : List InfoItem} {s t : State} (h : raiseConfig k i s = .next t) :
    t = { s with
      cfgError := some ⟨k, currentIndex s, i⟩, trace := s.trace ++ [.cfgErr k i], phase := .failed } := by
  cases h
  rfl

/-- `cmd_count - 1` where a command has been accepted (10_state.md R49). -/
theorem currentIndex_of_ne {s : State} (h : s.cmdCount ≠ 0) : currentIndex s = s.cmdCount - 1 := by
  unfold currentIndex
  rw [if_neg h]

/-! ## Bank operations -/

/-- Everything a bank select that goes on can do (45_bank.md R282). -/
theorem bankSelect_ok {b : Nat} {x : Word16} {s t : State} (h : bankSelect b x s = .ok t) :
    ∃ k, bankAt s b = some k ∧
      ((x.toNat < k.n.toNat ∧ t = setBank b { k with sel := x } s) ∨
       (k.n.toNat ≤ x.toNat ∧ s.params.bankOor = .modulo ∧ t = setBank b { k with sel := x % k.n } s) ∨
       (k.n.toNat ≤ x.toNat ∧ s.params.bankOor = .ignore ∧ t = s)) := by
  unfold bankSelect at h
  split at h
  · cases h
  · rename_i k hk
    refine ⟨k, hk, ?_⟩
    split_ifs at h with hx
    · exact .inl ⟨hx, by cases h; rfl⟩
    · split at h
      · cases h
      · rename_i ho
        exact .inr (.inl ⟨by omega, ho, by cases h; rfl⟩)
      · rename_i ho
        exact .inr (.inr ⟨by omega, ho, by cases h; rfl⟩)

/-- Everything a bank select that ends the command can answer (45_bank.md R282). -/
theorem bankSelect_error {b : Nat} {x : Word16} {s : State} {r : Result} (h : bankSelect b x s = .error r) :
    (bankAt s b = none ∧ r = .fault .slotUnconfigured) ∨
    (∃ k, bankAt s b = some k ∧ k.n.toNat ≤ x.toNat ∧ s.params.bankOor = .fault ∧ r = raiseFault .bankIndex s) := by
  unfold bankSelect at h
  split at h
  · rename_i hk
    exact .inl ⟨hk, by cases h; rfl⟩
  · rename_i k hk
    split_ifs at h with hx
    split at h
    · rename_i ho
      exact .inr ⟨k, hk, by omega, ho, by cases h; rfl⟩
    · cases h
    · cases h

/-- A cell read that goes on (45_bank.md R283). -/
theorem bufRead_ok {b : Nat} {off : Word32} {s : State} {v : Byte} (h : bufRead b off s = .ok v) :
    ∃ k, bankAt s b = some k ∧ off.toNat < k.size.toNat ∧ s.cell b k.sel off = some v := by
  unfold bufRead at h
  split at h
  · cases h
  · rename_i k hk
    split_ifs at h with hs
    split at h
    · cases h
    · rename_i hv
      exact ⟨k, hk, by omega, by cases h; exact hv⟩

/-- A cell read that ends the command (45_bank.md R283). -/
theorem bufRead_error {b : Nat} {off : Word32} {s : State} {r : Result} (h : bufRead b off s = .error r) :
    (bankAt s b = none ∧ r = .fault .slotUnconfigured) ∨
    (∃ k, bankAt s b = some k ∧ k.size.toNat ≤ off.toNat ∧ r = .fault .cellOutside) ∨
    (∃ k, bankAt s b = some k ∧ off.toNat < k.size.toNat ∧ s.cell b k.sel off = none ∧
      r = raiseFault .unwritten s) := by
  unfold bufRead at h
  split at h
  · rename_i hk
    exact .inl ⟨hk, by cases h; rfl⟩
  · rename_i k hk
    split_ifs at h with hs
    · exact .inr (.inl ⟨k, hk, hs, by cases h; rfl⟩)
    · split at h
      · rename_i hv
        exact .inr (.inr ⟨k, hk, by omega, hv, by cases h; rfl⟩)
      · cases h

/-- A cell write that goes on (45_bank.md R284). -/
theorem bufWrite_ok {b : Nat} {off : Word32} {v : Byte} {s t : State} (h : bufWrite b off v s = .ok t) :
    ∃ k, bankAt s b = some k ∧ off.toNat < k.size.toNat ∧
      t = { s with mem := Memory.write s.params.bankInit s.mem (cellKey b k.sel off) v } := by
  unfold bufWrite at h
  split at h
  · cases h
  · rename_i k hk
    split_ifs at h with hs
    exact ⟨k, hk, by omega, by cases h; rfl⟩

/-- A cell write that ends the command: only in states no run reaches. -/
theorem bufWrite_error {b : Nat} {off : Word32} {v : Byte} {s : State} {r : Result}
    (h : bufWrite b off v s = .error r) :
    (bankAt s b = none ∧ r = .fault .slotUnconfigured) ∨
    (∃ k, bankAt s b = some k ∧ k.size.toNat ≤ off.toNat ∧ r = .fault .cellOutside) := by
  unfold bufWrite at h
  split at h
  · rename_i hk
    exact .inl ⟨hk, by cases h; rfl⟩
  · rename_i k hk
    split_ifs at h with hs
    exact .inr ⟨k, hk, hs, by cases h; rfl⟩

/-- A bank select moves no buffer and changes no N or S: slot by slot, only `sel` can differ. -/
theorem bankSelect_shape {b : Nat} {x : Word16} {s t : State} (h : bankSelect b x s = .ok t) (b' : Nat) :
    (bankAt t b').map (fun k => (k.n, k.size)) = (bankAt s b').map (fun k => (k.n, k.size)) := by
  have key : ∀ (k : Bank) (y : Word16), bankAt s b = some k →
      (bankAt (setBank b { k with sel := y } s) b').map (fun k => (k.n, k.size)) =
        (bankAt s b').map (fun k => (k.n, k.size)) := by
    intro k y hk
    by_cases hb : b = b'
    · subst hb
      by_cases h16 : b < 16
      · rw [hk]
        simp [bankAt, h16]
      · simp [bankAt, h16]
    · simp [bankAt, hb]
  obtain ⟨k, hk, ⟨-, rfl⟩ | ⟨-, -, rfl⟩ | ⟨-, -, rfl⟩⟩ := bankSelect_ok h
  · exact key k x hk
  · exact key k _ hk
  · rfl

/-! ## Port dispatch -/

/-- How a write dispatch ends: every match done, at a DEVICE entry, by F_BANK_INDEX, or (in states no run reaches)
by a stop. The states it passes through differ from s in bank selectors only (42_portdispatch.md R191). -/
theorem dispatchWrite_cases {u : Word16} {o : Word32} {v : Byte} {sp : Sel} {k : Nat} {es : List PortEntry}
    {s : State} {r : Result} (h : dispatchWrite u o v sp k es s = r) :
    ∃ s' : State, s' = { s with banks := s'.banks } ∧
      (∀ b, (bankAt s' b).map (fun k => (k.n, k.size)) = (bankAt s b).map (fun k => (k.n, k.size))) ∧
      (r = .next (finishWrite sp v s') ∨
       (∃ e ∈ es, ∃ j, portMatches .w o e = true ∧ e.tkind = .device ∧
          r = .next (invoke (.invWrite e.tid o v) .handler (.portIter u .w o v j none sp) s')) ∨
       (∃ e ∈ es, portMatches .w o e = true ∧ e.tkind = .banksel ∧ s.params.bankOor = .fault ∧
          r = raiseFault .bankIndex s') ∨
       (∃ e ∈ es, portMatches .w o e = true ∧ e.tkind = .banksel ∧ bankAt s e.tid.toNat = none ∧
          r = .fault .slotUnconfigured) ∨
       (∃ e ∈ es, portMatches .w o e = true ∧ (e.tkind = .bank ∨ e.tkind = .ports) ∧
          r = .fault .illegalTarget)) := by
  induction es generalizing k s with
  | nil => exact ⟨s, rfl, fun _ => rfl, .inl (by rw [← h, dispatchWrite])⟩
  | cons e es ih =>
    rw [dispatchWrite] at h
    split_ifs at h with hm
    · split at h
      · rename_i ht
        exact ⟨s, rfl, fun _ => rfl, .inr (.inl ⟨e, by simp, _, hm, ht, h.symm⟩)⟩
      · rename_i ht
        split at h
        · rename_i s1 hs
          obtain ⟨s', hs', hshape, hcases⟩ := ih h
          have hsame : ∀ b, (bankAt s1 b).map (fun k => (k.n, k.size)) =
              (bankAt s b).map (fun k => (k.n, k.size)) := bankSelect_shape hs
          have hpar : s1 = { s with banks := s1.banks } := by
            obtain ⟨_, -, ⟨-, rfl⟩ | ⟨-, -, rfl⟩ | ⟨-, -, rfl⟩⟩ := bankSelect_ok hs <;> rfl
          refine ⟨s', ?_, fun b => (hshape b).trans (hsame b), ?_⟩
          · rw [hs', hpar]
          · have hp : s1.params = s.params := by rw [hpar]
            have hnone : ∀ b, bankAt s1 b = none → bankAt s b = none := by
              intro b hb
              have := hsame b
              rw [hb] at this
              simpa using this.symm
            rcases hcases with h1 | ⟨e', he', j, h1⟩ | ⟨e', he', h1, h2, h3, h4⟩ | ⟨e', he', h1, h2, h3, h4⟩ |
              ⟨e', he', h1⟩
            · exact .inl h1
            · exact .inr (.inl ⟨e', by simp [he'], j, h1⟩)
            · exact .inr (.inr (.inl ⟨e', by simp [he'], h1, h2, hp ▸ h3, h4⟩))
            · exact .inr (.inr (.inr (.inl ⟨e', by simp [he'], h1, h2, hnone _ h3, h4⟩)))
            · exact .inr (.inr (.inr (.inr ⟨e', by simp [he'], h1⟩)))
        · rename_i r' hs
          subst h
          refine ⟨s, rfl, fun _ => rfl, ?_⟩
          rcases bankSelect_error hs with ⟨hn, hr⟩ | ⟨k', -, -, ho, hr⟩
          · exact .inr (.inr (.inr (.inl ⟨e, by simp, hm, ht, hn, hr⟩)))
          · exact .inr (.inr (.inl ⟨e, by simp, hm, ht, ho, hr⟩))
      · rename_i ht
        exact ⟨s, rfl, fun _ => rfl, .inr (.inr (.inr (.inr ⟨e, by simp, hm, .inl ht, h.symm⟩)))⟩
      · rename_i ht
        exact ⟨s, rfl, fun _ => rfl, .inr (.inr (.inr (.inr ⟨e, by simp, hm, .inr ht, h.symm⟩)))⟩
    · obtain ⟨s', hs', hshape, hcases⟩ := ih h
      refine ⟨s', hs', hshape, ?_⟩
      rcases hcases with h1 | ⟨e', he', j, h1⟩ | ⟨e', he', h1⟩ | ⟨e', he', h1⟩ | ⟨e', he', h1⟩
      · exact .inl h1
      · exact .inr (.inl ⟨e', by simp [he'], j, h1⟩)
      · exact .inr (.inr (.inl ⟨e', by simp [he'], h1⟩))
      · exact .inr (.inr (.inr (.inl ⟨e', by simp [he'], h1⟩)))
      · exact .inr (.inr (.inr (.inr ⟨e', by simp [he'], h1⟩)))

/-- How a read dispatch ends: at its end with the result so far or the open-bus value, at a DEVICE entry, or (in
states no run reaches) by a stop (42_portdispatch.md R194). -/
theorem dispatchRead_cases {u : Word16} {o : Word32} {sp : Sel} {acc : Option Byte} {k : Nat}
    {es : List PortEntry} {s : State} {r : Result} (h : dispatchRead u o sp acc k es s = r) :
    ((∀ e ∈ es, portMatches .r o e = false) ∧ ((∃ v, acc = some v ∧ r = .next (finishRead sp v s)) ∨
      (acc = none ∧ r = .next (finishOpenBus sp s)))) ∨
    (∃ e ∈ es, ∃ j, portMatches .r o e = true ∧ e.tkind = .device ∧
      r = .next (invoke (.invRead e.tid o) .handler (.portIter u .r o 0 j acc sp) s)) ∨
    (∃ e ∈ es, portMatches .r o e = true ∧ e.tkind ≠ .device ∧ r = .fault .illegalTarget) := by
  induction es generalizing k with
  | nil =>
    rw [dispatchRead.eq_def] at h
    cases acc with
    | none => exact .inl ⟨by simp, .inr ⟨rfl, h.symm⟩⟩
    | some v => exact .inl ⟨by simp, .inl ⟨v, rfl, h.symm⟩⟩
  | cons e es ih =>
    rw [dispatchRead] at h
    split_ifs at h with hm
    · split at h
      · rename_i ht
        exact .inr (.inl ⟨e, by simp, _, hm, ht, h.symm⟩)
      all_goals
        rename_i ht
        exact .inr (.inr ⟨e, by simp, hm, by simp [ht], h.symm⟩)
    · rcases ih h with ⟨hno, h1⟩ | ⟨e', he', j, h1⟩ | ⟨e', he', h1⟩
      · exact .inl ⟨by simpa [hm] using hno, h1⟩
      · exact .inr (.inl ⟨e', by simp [he'], j, h1⟩)
      · exact .inr (.inr ⟨e', by simp [he'], h1⟩)

/-! ## The scheduler -/

/-- `alloc_id()` (44_scheduler.md R241). -/
theorem allocId_ok {s t : State} {id : Word32} (h : allocId s = .ok (id, t)) :
    s.nextId ≠ 0 ∧ id = s.nextId ∧ t = { s with nextId := s.nextId + 1 } := by
  unfold allocId at h
  split_ifs at h with h0
  cases h
  exact ⟨h0, rfl, rfl⟩

/-- `arm(e)` (44_scheduler.md R241). -/
theorem arm_ok {e : Event} {s t : State} (h : arm e s = .ok t) :
    s.nextSeq ≠ BitVec.allOnes 64 ∧
    t = { s with
      nextSeq := s.nextSeq + 1
      queue := putEvent { e with seq := s.nextSeq, defer := s.ctx == .callback } s.queue } := by
  unfold arm at h
  split_ifs at h with h0
  cases h
  exact ⟨h0, rfl⟩

theorem arm_error {e : Event} {s : State} {r : Result} (h : arm e s = .error r) :
    s.nextSeq = BitVec.allOnes 64 ∧ r = raiseFault .idExhausted s := by
  unfold arm at h
  split_ifs at h with h0
  cases h
  exact ⟨h0, rfl⟩

/-- Everything the shared part of SCHED_AFTER and SCHED_PERIODIC can do (44_scheduler.md R241, R243). -/
theorem schedule_cases {delay : Word64} {period : Option Word64} {tag : Word32} {s : State} {r : Result}
    (h : schedule delay period tag s = r) :
    (2 ^ 64 ≤ s.elapsed.toNat + delay.toNat ∧ r = raiseFault .timeOverflow s) ∨
    (s.elapsed.toNat + delay.toNat < 2 ^ 64 ∧
      ((s.queue.length = s.params.maxEvents ∧ r = raiseFault .queueFull s) ∨
       (s.queue.length ≠ s.params.maxEvents ∧
        ((s.nextId = 0 ∧ r = raiseFault .idExhausted s) ∨
         (s.nextId ≠ 0 ∧ s.nextSeq = BitVec.allOnes 64 ∧
            r = raiseFault .idExhausted { s with nextId := s.nextId + 1 }) ∨
         (s.nextId ≠ 0 ∧ s.nextSeq ≠ BitVec.allOnes 64 ∧
            r = .next { s with
              nextId := s.nextId + 1
              nextSeq := s.nextSeq + 1
              queue := putEvent { id := s.nextId, deadline := s.elapsed + delay, period := period, tag := tag,
                                  seq := s.nextSeq, defer := s.ctx == .callback } s.queue
              responses := s.responses ++ [s.nextId.setWidth 64] }))))) := by
  unfold schedule at h
  by_cases h1 : 2 ^ 64 ≤ s.elapsed.toNat + delay.toNat
  · rw [if_pos h1] at h
    exact .inl ⟨h1, h.symm⟩
  rw [if_neg h1] at h
  refine .inr ⟨by omega, ?_⟩
  by_cases h2 : s.queue.length = s.params.maxEvents
  · rw [if_pos h2] at h
    exact .inl ⟨h2, h.symm⟩
  rw [if_neg h2] at h
  refine .inr ⟨h2, ?_⟩
  by_cases h3 : s.nextId = 0
  · rw [allocId, if_pos h3] at h
    exact .inl ⟨h3, h.symm⟩
  rw [allocId, if_neg h3] at h
  by_cases h4 : s.nextSeq = BitVec.allOnes 64
  · simp only [arm, if_pos h4] at h
    exact .inr (.inl ⟨h3, h4, h.symm⟩)
  · simp only [arm, if_neg h4] at h
    exact .inr (.inr ⟨h3, h4, h.symm⟩)

theorem mem_putEvent {e x : Event} {q : List Event} (h : x ∈ putEvent e q) : x = e ∨ x ∈ q := by
  unfold putEvent at h
  split_ifs at h with hany
  · obtain ⟨y, hy, hxy⟩ := List.mem_map.1 h
    split_ifs at hxy with hid
    · exact .inl hxy.symm
    · exact .inr (hxy ▸ hy)
  · simpa [or_comm] using h

/-- Everything a firing can do (44_scheduler.md R251). -/
theorem fireEvent_cases {e : Event} {s : State} {r : Except Result State} (h : fireEvent e s = r) :
    (e.period = none ∧ r = .ok { s with queue := removeEvent e.id s.queue }) ∨
    (∃ p, e.period = some p ∧ 2 ^ 64 ≤ e.deadline.toNat + p.toNat ∧ r = .error (raiseFault .timeOverflow s)) ∨
    (∃ p, e.period = some p ∧ e.deadline.toNat + p.toNat < 2 ^ 64 ∧ s.nextSeq = BitVec.allOnes 64 ∧
      r = .error (raiseFault .idExhausted
        { s with queue := putEvent { e with deadline := e.deadline + p } s.queue })) ∨
    (∃ p, e.period = some p ∧ e.deadline.toNat + p.toNat < 2 ^ 64 ∧ s.nextSeq ≠ BitVec.allOnes 64 ∧
      r = .ok { s with
        nextSeq := s.nextSeq + 1
        queue := putEvent { e with deadline := e.deadline + p, seq := s.nextSeq, defer := s.ctx == .callback }
          (putEvent { e with deadline := e.deadline + p } s.queue) }) := by
  unfold fireEvent at h
  split at h
  · rename_i hp
    exact .inl ⟨hp, h.symm⟩
  · rename_i p hp
    split_ifs at h with ho
    · exact .inr (.inl ⟨p, hp, ho, h.symm⟩)
    · unfold arm at h
      dsimp only at h
      split_ifs at h with hq
      · exact .inr (.inr (.inl ⟨p, hp, by omega, hq, h.symm⟩))
      · exact .inr (.inr (.inr ⟨p, hp, by omega, hq, h.symm⟩))

theorem mem_earliest {e : Event} {es : List Event} (h : e ∈ earliest es) : e ∈ es :=
  (List.mem_filter.1 h).1

theorem leastSeq_mem {es : List Event} {e : Event} (h : leastSeq es = some e) : e ∈ es := by
  cases es with
  | nil => cases h
  | cons x xs =>
    simp only [leastSeq, Option.some.injEq] at h
    subst h
    induction xs generalizing x with
    | nil => simp
    | cons y ys ih =>
      rw [List.foldl_cons]
      have := ih (if y.seq.toNat < x.seq.toNat then y else x)
      rcases List.mem_cons.1 this with h | h
      · rw [h]
        split_ifs <;> simp
      · exact List.mem_cons_of_mem _ (List.mem_cons_of_mem _ h)

/-- What pick takes is due: it is in the queue, not deferred, and its deadline has come (44_scheduler.md R251). -/
theorem pickDue_mem {s : State} {e : Event} (h : pickDue s = some e) :
    e ∈ s.queue ∧ e.defer = false ∧ e.deadline.toNat ≤ s.elapsed.toNat := by
  have hmem : e ∈ earliest (dueEvents s) := by
    unfold pickDue at h
    split at h
    · exact leastSeq_mem h
    · exact List.mem_of_getElem? h
  have := List.mem_filter.1 (mem_earliest hmem)
  simpa [isDue] using this

/-- Everything `pump_continue()` can do (44_scheduler.md R251). -/
theorem pumpContinue_cases {s : State} {r : Result} (h : pumpContinue s = r) :
    (pickDue s = none ∧ r = .next { s with pumping := false }) ∨
    (∃ e, pickDue s = some e ∧
      ((∃ s', fireEvent e (afterPick s) = .ok s' ∧
          r = .next (invoke (.invCallback e.tag e.id) .callback (.callback e.id) s')) ∨
       (fireEvent e (afterPick s) = .error r))) := by
  unfold pumpContinue at h
  split at h
  · rename_i hp
    exact .inl ⟨hp, h.symm⟩
  · rename_i e hp
    refine .inr ⟨e, hp, ?_⟩
    split at h
    · rename_i r' hf
      exact .inr (by rw [hf, h])
    · rename_i s' hf
      exact .inl ⟨s', hf, h.symm⟩

/-! ## The command interface -/

/-- A group's operand words are taken whole and the inputs behind them stay. -/
theorem takeOperands_map (ws : List Word64) (rest : List Input) :
    takeOperands ws.length (ws.map .operand ++ rest) = .words ws rest := by
  induction ws with
  | nil => rfl
  | cons w ws ih => simp [takeOperands, ih]

/-- What is taken stood at the interface in that order. -/
theorem takeOperands_words {n : Nat} {inp rest : List Input} {ws : List Word64}
    (h : takeOperands n inp = .words ws rest) : ws.length = n ∧ inp = ws.map .operand ++ rest := by
  induction n generalizing inp ws with
  | zero =>
    cases inp <;> cases h <;> exact ⟨rfl, rfl⟩
  | succ n ih =>
    cases inp with
    | nil => cases h
    | cons x xs =>
      cases x with
      | operand w =>
        rw [takeOperands] at h
        split at h
        · rename_i ws' rest' hws
          cases h
          obtain ⟨h1, h2⟩ := ih hws
          exact ⟨by simp [h1], by simp [h2]⟩
        · cases h
        · cases h
        · cases h
      | header _ => cases h
      | save => cases h
      | restore _ => cases h
      | reset => cases h

/-- A host operation behind too few operand words interrupts the group. -/
theorem takeOperands_interrupted {n : Nat} {ws : List Word64} {op : Input} (rest : List Input) (hn : ws.length < n)
    (hop : isHostOperation op = true) : takeOperands n (ws.map .operand ++ op :: rest) = .interrupted := by
  induction ws generalizing n with
  | nil =>
    cases n with
    | zero => simp at hn
    | succ n => cases op <;> first | rfl | simp [isHostOperation] at hop
  | cons w ws ih =>
    cases n with
    | zero => simp at hn
    | succ n => simp [takeOperands, ih (Nat.lt_of_succ_lt_succ hn)]

theorem takePast_eq_none {serve : Input → Bool} {inp : List Input} (h : ∀ i ∈ inp, serve i = false) :
    takePast serve inp = none := by
  induction inp with
  | nil => rfl
  | cons i rest ih => simp_all [takePast]

/-- The first accepted input is taken; the inputs before it stay, unless it is a reset. -/
theorem takePast_append {serve : Input → Bool} {pre : List Input} {j : Input} (rest : List Input)
    (hpre : ∀ i ∈ pre, serve i = false) (hj : serve j = true) :
    takePast serve (pre ++ j :: rest) = some (j, if isReset j then rest else pre ++ rest) := by
  induction pre with
  | nil => simp [takePast, hj]
  | cons i pre ih =>
    rw [List.cons_append, takePast, if_neg (by simp [hpre i]), ih fun x hx => hpre x (by simp [hx])]
    by_cases hr : isReset j = true <;> simp [hr]

/-- Every input that is taken stood at the interface behind inputs that are not accepted. -/
theorem takePast_some {serve : Input → Bool} {inp rest' : List Input} {j : Input}
    (h : takePast serve inp = some (j, rest')) :
    ∃ pre rest, inp = pre ++ j :: rest ∧ serve j = true ∧ (∀ i ∈ pre, serve i = false) ∧
      rest' = if isReset j then rest else pre ++ rest := by
  induction inp generalizing j rest' with
  | nil => cases h
  | cons i inp ih =>
    rw [takePast] at h
    split_ifs at h with hi
    · cases h
      exact ⟨[], inp, rfl, hi, by simp, by simp⟩
    · split at h
      · cases h
      · rename_i j' r hj
        cases h
        obtain ⟨pre, rest, rfl, hs, hpre, rfl⟩ := ih hj
        refine ⟨i :: pre, rest, rfl, hs, by simpa [hi] using hpre, ?_⟩
        by_cases hr : isReset j = true <;> simp [hr]

end Sys2Proof.Machine
end

