-- ==== Sys2Proof/Laws/PerInstr.lean ====
section
/-! SUPPORT. Facts about the syntax of a command, proved one constructor at a time: the header an encoding starts
with and the number of words that follow it. -/

namespace Sys2Proof.Laws

/-- OP is bits 7..0 of the header word (30_encoding.md R102). -/
theorem hOp_word (f : Header) : hOp f.word = f.op := by
  apply BitVec.eq_of_getLsbD_eq
  intro k hk
  simp only [hOp, Header.word, BitVec.getLsbD_extractLsb', BitVec.getLsbD_append]
  simp [hk]

/-- The OP bytes of the map are pairwise different (R103). -/
theorem ofByte_byte (c : Opcode) : Opcode.ofByte c.byte = some c := by
  cases c <;> rfl

/-- The encoding's OP field is the command's opcode (R103). -/
def HeaderOpcode.Statement (i : Instr) : Prop :=
  Opcode.ofByte (hOp (encode i).1) = some i.opcode

/-- The encoding has the L(OP) operand words of R103, so the header tells the group's length (R114). -/
def GroupLength.Statement (i : Instr) : Prop :=
  (encode i).2.length = operandCount (encode i).1

theorem headerOpcode_of (i : Instr) (h : i.header.op = i.opcode.byte) : HeaderOpcode.Statement i := by
  rw [HeaderOpcode.Statement, encode, hOp_word, h, ofByte_byte]

theorem groupLength_of (i : Instr) (h : i.header.op = i.opcode.byte) (hl : i.operands.length = i.opcode.len) :
    GroupLength.Statement i := by
  have hc := headerOpcode_of i h
  rw [HeaderOpcode.Statement] at hc
  rw [GroupLength.Statement, operandCount, hc]
  exact hl

theorem HeaderOpcode.cfgGeometry (cpl : Word32) (lpf : Word32) (hbs : Word32) (hbe : Word32) (vbs : Word32) (vbe : Word32) :
    HeaderOpcode.Statement (.cfgGeometry cpl lpf hbs hbe vbs vbe) :=
  headerOpcode_of _ rfl

theorem HeaderOpcode.cfgBank (b : Sel) (n : Word16) (size : Word32) :
    HeaderOpcode.Statement (.cfgBank b n size) :=
  headerOpcode_of _ rfl

theorem HeaderOpcode.cfgPortunit (u : Sel) (p : Policy) :
    HeaderOpcode.Statement (.cfgPortunit u p) :=
  headerOpcode_of _ rfl

theorem HeaderOpcode.regRange (sp : Sel) (dm : DirSet) (ovr : Bool) (tk : TKind) (lo : Word32) (hi : Word32) (mask : Word32) (tid : Word16) :
    HeaderOpcode.Statement (.regRange sp dm ovr tk lo hi mask tid) :=
  headerOpcode_of _ rfl

theorem HeaderOpcode.regPort (u : Sel) (dm : DirSet) (tk : TKind) (bitmask : Word32) (tid : Word16) :
    HeaderOpcode.Statement (.regPort u dm tk bitmask tid) :=
  headerOpcode_of _ rfl

theorem HeaderOpcode.start :
    HeaderOpcode.Statement (.start) :=
  headerOpcode_of _ rfl

theorem HeaderOpcode.read (sp : Sel) (wid : BitVec 2) (addr : Word32) :
    HeaderOpcode.Statement (.read sp wid addr) :=
  headerOpcode_of _ rfl

theorem HeaderOpcode.write (sp : Sel) (wid : BitVec 2) (v : Byte) (addr : Word32) :
    HeaderOpcode.Statement (.write sp wid v addr) :=
  headerOpcode_of _ rfl

theorem HeaderOpcode.step (cycles : Word64) :
    HeaderOpcode.Statement (.step cycles) :=
  headerOpcode_of _ rfl

theorem HeaderOpcode.rcNow :
    HeaderOpcode.Statement (.rcNow) :=
  headerOpcode_of _ rfl

theorem HeaderOpcode.rcScanline (now : Bool) (t : Word64) :
    HeaderOpcode.Statement (.rcScanline now t) :=
  headerOpcode_of _ rfl

theorem HeaderOpcode.rcHpos (now : Bool) (t : Word64) :
    HeaderOpcode.Statement (.rcHpos now t) :=
  headerOpcode_of _ rfl

theorem HeaderOpcode.rcHblank (now : Bool) (t : Word64) :
    HeaderOpcode.Statement (.rcHblank now t) :=
  headerOpcode_of _ rfl

theorem HeaderOpcode.rcVblank (now : Bool) (t : Word64) :
    HeaderOpcode.Statement (.rcVblank now t) :=
  headerOpcode_of _ rfl

theorem HeaderOpcode.rcCblank (now : Bool) (t : Word64) :
    HeaderOpcode.Statement (.rcCblank now t) :=
  headerOpcode_of _ rfl

theorem HeaderOpcode.rcLinebit (n : Byte) (now : Bool) (t : Word64) :
    HeaderOpcode.Statement (.rcLinebit n now t) :=
  headerOpcode_of _ rfl

theorem HeaderOpcode.schedAfter (delay : Word64) (tag : Word32) :
    HeaderOpcode.Statement (.schedAfter delay tag) :=
  headerOpcode_of _ rfl

theorem HeaderOpcode.schedPeriodic (period : Word64) (tag : Word32) :
    HeaderOpcode.Statement (.schedPeriodic period tag) :=
  headerOpcode_of _ rfl

theorem HeaderOpcode.cancel (id : Word32) :
    HeaderOpcode.Statement (.cancel id) :=
  headerOpcode_of _ rfl

theorem HeaderOpcode.bankSelect (b : Sel) (x : Word16) :
    HeaderOpcode.Statement (.bankSelect b x) :=
  headerOpcode_of _ rfl

theorem HeaderOpcode.bankActive (b : Sel) :
    HeaderOpcode.Statement (.bankActive b) :=
  headerOpcode_of _ rfl

theorem HeaderOpcode.hret (d : Byte) :
    HeaderOpcode.Statement (.hret d) :=
  headerOpcode_of _ rfl

theorem GroupLength.cfgGeometry (cpl : Word32) (lpf : Word32) (hbs : Word32) (hbe : Word32) (vbs : Word32) (vbe : Word32) :
    GroupLength.Statement (.cfgGeometry cpl lpf hbs hbe vbs vbe) :=
  groupLength_of _ rfl rfl

theorem GroupLength.cfgBank (b : Sel) (n : Word16) (size : Word32) :
    GroupLength.Statement (.cfgBank b n size) :=
  groupLength_of _ rfl rfl

theorem GroupLength.cfgPortunit (u : Sel) (p : Policy) :
    GroupLength.Statement (.cfgPortunit u p) :=
  groupLength_of _ rfl rfl

theorem GroupLength.regRange (sp : Sel) (dm : DirSet) (ovr : Bool) (tk : TKind) (lo : Word32) (hi : Word32) (mask : Word32) (tid : Word16) :
    GroupLength.Statement (.regRange sp dm ovr tk lo hi mask tid) :=
  groupLength_of _ rfl rfl

theorem GroupLength.regPort (u : Sel) (dm : DirSet) (tk : TKind) (bitmask : Word32) (tid : Word16) :
    GroupLength.Statement (.regPort u dm tk bitmask tid) :=
  groupLength_of _ rfl rfl

theorem GroupLength.start :
    GroupLength.Statement (.start) :=
  groupLength_of _ rfl rfl

theorem GroupLength.read (sp : Sel) (wid : BitVec 2) (addr : Word32) :
    GroupLength.Statement (.read sp wid addr) :=
  groupLength_of _ rfl rfl

theorem GroupLength.write (sp : Sel) (wid : BitVec 2) (v : Byte) (addr : Word32) :
    GroupLength.Statement (.write sp wid v addr) :=
  groupLength_of _ rfl rfl

theorem GroupLength.step (cycles : Word64) :
    GroupLength.Statement (.step cycles) :=
  groupLength_of _ rfl rfl

theorem GroupLength.rcNow :
    GroupLength.Statement (.rcNow) :=
  groupLength_of _ rfl rfl

theorem GroupLength.rcScanline (now : Bool) (t : Word64) :
    GroupLength.Statement (.rcScanline now t) :=
  groupLength_of _ rfl rfl

theorem GroupLength.rcHpos (now : Bool) (t : Word64) :
    GroupLength.Statement (.rcHpos now t) :=
  groupLength_of _ rfl rfl

theorem GroupLength.rcHblank (now : Bool) (t : Word64) :
    GroupLength.Statement (.rcHblank now t) :=
  groupLength_of _ rfl rfl

theorem GroupLength.rcVblank (now : Bool) (t : Word64) :
    GroupLength.Statement (.rcVblank now t) :=
  groupLength_of _ rfl rfl

theorem GroupLength.rcCblank (now : Bool) (t : Word64) :
    GroupLength.Statement (.rcCblank now t) :=
  groupLength_of _ rfl rfl

theorem GroupLength.rcLinebit (n : Byte) (now : Bool) (t : Word64) :
    GroupLength.Statement (.rcLinebit n now t) :=
  groupLength_of _ rfl rfl

theorem GroupLength.schedAfter (delay : Word64) (tag : Word32) :
    GroupLength.Statement (.schedAfter delay tag) :=
  groupLength_of _ rfl rfl

theorem GroupLength.schedPeriodic (period : Word64) (tag : Word32) :
    GroupLength.Statement (.schedPeriodic period tag) :=
  groupLength_of _ rfl rfl

theorem GroupLength.cancel (id : Word32) :
    GroupLength.Statement (.cancel id) :=
  groupLength_of _ rfl rfl

theorem GroupLength.bankSelect (b : Sel) (x : Word16) :
    GroupLength.Statement (.bankSelect b x) :=
  groupLength_of _ rfl rfl

theorem GroupLength.bankActive (b : Sel) :
    GroupLength.Statement (.bankActive b) :=
  groupLength_of _ rfl rfl

theorem GroupLength.hret (d : Byte) :
    GroupLength.Statement (.hret d) :=
  groupLength_of _ rfl rfl

end Sys2Proof.Laws
end

