-- ==== Sys2Proof/Machine/Assembler.lean ====
section
/-! DEFINITION. The written form of a command (30_encoding.md R116) and the pseudo-instructions of R117. The
assembler expands them; the block never sees one. -/

namespace Sys2Proof.Machine

/-- A number as R116 writes it, in decimal. -/
def asmNum {w : Nat} (v : BitVec w) : String :=
  toString v.toNat

/-- R or W. -/
def asmDir : DirSet → String
  | .r => "R"
  | .w => "W"
  | .rw => "RW"

/-- A target with its kind. -/
def asmTarget (tk : TKind) (tid : Word16) : String :=
  (match tk with
    | .device => "DEVICE "
    | .bank => "BANK "
    | .ports => "PORTS "
    | .banksel => "BANKSEL ") ++ asmNum tid

/-- The width suffix of READ and WRITE. -/
def asmWidth (wid : BitVec 2) : String :=
  if wid = 0 then "" else if wid = 1 then ".2" else if wid = 2 then ".4" else ".8"

/-- `t | NOW`. -/
def asmTime (now : Bool) (t : Word64) : String :=
  if now then "NOW" else asmNum t

/-- A command as R116 writes it. -/
def asmText : Instr → String
  | .cfgGeometry cpl lpf hbs hbe vbs vbe =>
    "CFG_GEOMETRY " ++ asmNum cpl ++ ", " ++ asmNum lpf ++ ", " ++ asmNum hbs ++ ", " ++ asmNum hbe ++ ", " ++
      asmNum vbs ++ ", " ++ asmNum vbe
  | .cfgBank b n size => "CFG_BANK " ++ asmNum b ++ ", " ++ asmNum n ++ ", " ++ asmNum size
  | .cfgPortunit u p => "CFG_PORTUNIT " ++ asmNum u ++ ", " ++ (if p = .last then "LAST" else "FIRST")
  | .regRange sp dm ovr tk lo hi mask tid =>
    "REG_RANGE " ++ asmNum sp ++ ", " ++ asmDir dm ++ ", " ++ (if ovr then "OVR, " else "") ++ asmTarget tk tid ++
      ", " ++ asmNum lo ++ ", " ++ asmNum hi ++ ", " ++ asmNum mask
  | .regPort u dm tk bitmask tid =>
    "REG_PORT " ++ asmNum u ++ ", " ++ asmDir dm ++ ", " ++ asmTarget tk tid ++ ", " ++ asmNum bitmask
  | .start => "START"
  | .read sp wid addr => "READ" ++ asmWidth wid ++ " " ++ asmNum sp ++ ", " ++ asmNum addr
  | .write sp wid v addr => "WRITE" ++ asmWidth wid ++ " " ++ asmNum sp ++ ", " ++ asmNum addr ++ ", " ++ asmNum v
  | .step cycles => "STEP " ++ asmNum cycles
  | .rcNow => "RC_NOW"
  | .rcScanline now t => "RC_SCANLINE " ++ asmTime now t
  | .rcHpos now t => "RC_HPOS " ++ asmTime now t
  | .rcHblank now t => "RC_HBLANK " ++ asmTime now t
  | .rcVblank now t => "RC_VBLANK " ++ asmTime now t
  | .rcCblank now t => "RC_CBLANK " ++ asmTime now t
  | .rcLinebit n now t => "RC_LINEBIT " ++ asmNum n ++ ", " ++ asmTime now t
  | .schedAfter delay tag => "SCHED_AFTER " ++ asmNum delay ++ ", " ++ asmNum tag
  | .schedPeriodic period tag => "SCHED_PERIODIC " ++ asmNum period ++ ", " ++ asmNum tag
  | .cancel id => "CANCEL " ++ asmNum id
  | .bankSelect b x => "BANK_SELECT " ++ asmNum b ++ ", " ++ asmNum x
  | .bankActive b => "BANK_ACTIVE " ++ asmNum b
  | .hret d => "HRET " ++ asmNum d

/-- The pseudo-instructions of R117. -/
inductive Pseudo where
  | mapRam (sp : Sel) (lo hi mask : Word32) (b : Sel)
  | mapBanked (sp : Sel) (lo hi mask : Word32) (b : Sel) (n : Word16)
  | mapDevice (sp : Sel) (dm : DirSet) (lo hi : Word32) (h : Word16)
  | mapLatch (sp : Sel) (lo hi mask : Word32) (b : Sel)
  | schedFrames (k : Nat) (tag : Word32)
  | everyFrame (tag : Word32)
  | insn (c : Word64)
  | pollVblank
deriving DecidableEq, Repr

/-- A number as a field of w bits; none where it does not fit (an assembly error, log 22). -/
def asField (w : Nat) (n : Nat) : Option (BitVec w) :=
  if n < 2 ^ w then some (BitVec.ofNat w n) else none

/-- `CFG_BANK b, n, end-start+1 ; REG_RANGE s, RW, BANK b, start, end, mask` (R117). -/
def expandBanked (sp : Sel) (lo hi mask : Word32) (b : Sel) (n : Word16) : Option (List Instr) :=
  if hi.toNat < lo.toNat then none
  else (asField 32 (hi.toNat - lo.toNat + 1)).map fun size =>
    [.cfgBank b n size, .regRange sp .rw false .bank lo hi mask (b.setWidth 16)]

/-- The expansion of a pseudo-instruction (R117): `aw` gives AW[s], `geo` the last CFG_GEOMETRY the assembler has
seen. None is an assembly error. -/
def expandPseudo (aw : Sel → Nat) (geo : Option Geometry) : Pseudo → Option (List Instr)
  | .mapRam sp lo hi mask b => expandBanked sp lo hi mask b 1
  | .mapBanked sp lo hi mask b n => expandBanked sp lo hi mask b n
  | .mapDevice sp dm lo hi h => some [.regRange sp dm false .device lo hi (BitVec.ofNat 32 (2 ^ aw sp - 1)) h]
  | .mapLatch sp lo hi mask b => some [.regRange sp .w false .banksel lo hi mask (b.setWidth 16)]
  | .schedFrames k tag =>
    match geo with
    | none => none
    | some g => (asField 64 (k * framePeriod g)).map fun d => [.schedAfter d tag]
  | .everyFrame tag =>
    match geo with
    | none => none
    | some g => (asField 64 (framePeriod g)).map fun d => [.schedPeriodic d tag]
  | .insn c => some [.step c]
  | .pollVblank => some [.rcVblank true 0]

end Sys2Proof.Machine
end

