-- ==== Sys2Proof/Tests/Slice0.lean ====
section
/-! SUPPORT. Tests: the well-formedness smoke, the decoding of words written out from the spec's tables, single steps whose
results 95_test_vectors.md gives, and for each statement with hypotheses a state and operands that meet them. -/

namespace Sys2Proof.Machine.Tests

/-! ## Well-formedness: each check refuses an ill-formed term (R105, R108) -/

theorem test_wf_port_both : (Instr.regPort 0 .rw .device 1 1).wf = false := by decide
theorem test_wf_scanline_now_time : (Instr.rcScanline true 5).wf = false := by decide
theorem test_wf_hpos_now_time : (Instr.rcHpos true 5).wf = false := by decide
theorem test_wf_hblank_now_time : (Instr.rcHblank true 5).wf = false := by decide
theorem test_wf_vblank_now_time : (Instr.rcVblank true 5).wf = false := by decide
theorem test_wf_cblank_now_time : (Instr.rcCblank true 5).wf = false := by decide
theorem test_wf_linebit_now_time : (Instr.rcLinebit 6 true 5).wf = false := by decide
theorem test_wf_accepts : (Instr.rcLinebit 6 true 0).wf = true ∧ (Instr.rcHpos false 5).wf = true ∧
    (Instr.regPort 0 .w .device 1 1).wf = true := by decide

/-! ## Decoding: words of 95_test_vectors.md Parts 2 and 3, one for every command -/

theorem test_decode_cfg :
    decodeGroup 0x00000001 [0x000000060000000A, 0x0000000A00000008, 0x0000000600000004] =
      .ok (.cfgGeometry 10 6 8 10 4 6) ∧
    decodeGroup 0x00000002 [0x0000000004000002] = .ok (.cfgBank 0 2 0x400) ∧
    decodeGroup 0x00000103 [0x0000000000000001] = .ok (.cfgPortunit 1 .first) ∧
    decodeGroup 0x00000006 [] = .ok .start := by
  refine ⟨?_, ?_, ?_, ?_⟩ <;> rfl

theorem test_decode_reg :
    decodeGroup 0x0C002004 [0x0000700000007000, 0x000000000000FFFF] =
      .ok (.regRange 0 .w false .banksel 0x7000 0x7000 0xFFFF 0) ∧
    decodeGroup 0x00005004 [0x000090FF00009000, 0x000000070000FFFF] =
      .ok (.regRange 0 .r true .device 0x9000 0x90FF 0xFFFF 7) ∧
    decodeGroup 0x08003104 [0x000000FF00000000, 0x00000000000000FF] =
      .ok (.regRange 1 .rw false .ports 0 0xFF 0xFF 0) ∧
    decodeGroup 0x00001105 [0x0000000B00000002] = .ok (.regPort 1 .r .device 2 0xB) := by
  refine ⟨?_, ?_, ?_, ?_⟩ <;> rfl

theorem test_decode_access :
    decodeGroup 0x00000110 [0x0000000000000013] = .ok (.read 1 0 0x13) ∧
    decodeGroup 0x01000010 [0x8000] = .ok (.read 0 1 0x8000) ∧
    decodeGroup 0x005A0111 [0x0000000000000003] = .ok (.write 1 0 0x5A 3) ∧
    decodeGroup 0x00000012 [0x000000000000003C] = .ok (.step 60) := by
  refine ⟨?_, ?_, ?_, ?_⟩ <;> rfl

theorem test_decode_raster :
    decodeGroup 0x00000020 [] = .ok .rcNow ∧
    decodeGroup 0x00008021 [0] = .ok (.rcScanline true 0) ∧
    decodeGroup 0x00008022 [0] = .ok (.rcHpos true 0) ∧
    decodeGroup 0x00008023 [0] = .ok (.rcHblank true 0) ∧
    decodeGroup 0x00008024 [0] = .ok (.rcVblank true 0) ∧
    decodeGroup 0x00000025 [0x30] = .ok (.rcCblank false 48) ∧
    decodeGroup 0x00028026 [0] = .ok (.rcLinebit 2 true 0) := by
  refine ⟨?_, ?_, ?_, ?_, ?_, ?_, ?_⟩ <;> rfl

theorem test_decode_scheduler :
    decodeGroup 0x00000030 [0x000000000000001E, 0x000000000000000A] = .ok (.schedAfter 30 0xA) ∧
    decodeGroup 0x00000031 [0x000000000000003C, 0x000000000000F00D] = .ok (.schedPeriodic 60 0xF00D) ∧
    decodeGroup 0x00000032 [0x0000000000000003] = .ok (.cancel 3) := by
  refine ⟨?_, ?_, ?_⟩ <;> rfl

theorem test_decode_bank_hret :
    decodeGroup 0x00000040 [0x0000000000000001] = .ok (.bankSelect 0 1) ∧
    decodeGroup 0x00000041 [] = .ok (.bankActive 0) ∧
    decodeGroup 0x0033007F [] = .ok (.hret 0x33) := by
  refine ⟨?_, ?_, ?_⟩ <;> rfl

/-- 95_test_vectors.md V1: the illegal groups. -/
theorem test_decode_illegal :
    decodeGroup 0x00000000 [] = .error .unassignedOp ∧
    decodeGroup 0x00000080 [] = .error .unassignedOp ∧
    decodeGroup 0x00000007 [] = .error .unassignedOp ∧
    decodeGroup 0x10000006 [] = .error .reservedHeader ∧
    decodeGroup 0x00000004 [0x000083FF00008000, 0x8FFF] = .error .illegalDirm ∧
    decodeGroup 0x00003005 [0x0000000100000001] = .error .illegalDirm ∧
    decodeGroup 0x00000002 [0x0001000004000001] = .error .reservedOperand ∧
    decodeGroup 0x00000003 [2] = .error .reservedOperand ∧
    decodeGroup 0x00404011 [0x8000] = .error .reservedHeader ∧
    decodeGroup 0xFF00007F [] = .error .reservedHeader := by
  refine ⟨?_, ?_, ?_, ?_, ?_, ?_, ?_, ?_, ?_, ?_⟩ <;> rfl

theorem test_encode_range : encode (.regRange 0 .rw false .bank 0x8000 0x83FF 0x8FFF 0) =
    (0x04003004, [0x000083FF00008000, 0x0000000000008FFF]) := by rfl

/-! ## Small states -/

/-- Geometry G of 95_test_vectors.md. -/
def geoG : Geometry := ⟨10, 6, 8, 10, 4, 6⟩

/-- Phase Config with slot 0 configured (N = 2, S = 1) and one command counted. -/
def conf : State :=
  { State.reset with banks := (Vector.replicate 16 none).set 0 (some ⟨2, 1, 0⟩), cmdCount := 1 }

/-- The tables of the small Run state: a mirrored one-byte bank range, a bank selector, a device and, in space 1, port
unit 0 behind four addresses. -/
def tables : Vector SpaceTables 16 :=
  ((Vector.replicate 16 ⟨[], []⟩).set 0
    ⟨[⟨0x8000, 0x8000, 0x8FFF, .bank, 0, false⟩, ⟨0x4000, 0x4000, 0xFFFF, .device, 3, true⟩],
     [⟨0x8000, 0x8000, 0x8FFF, .bank, 0, false⟩, ⟨0x7000, 0x7000, 0xFFFF, .banksel, 0, true⟩,
      ⟨0x4000, 0x4000, 0xFFFF, .device, 3, true⟩]⟩).set 1
    ⟨[⟨0, 3, 3, .ports, 0, false⟩], [⟨0, 3, 3, .ports, 0, false⟩]⟩

/-- Unit 0: two write devices, a bank selector and two read devices. -/
def unit0 : List PortEntry :=
  [⟨1, .w, .device, 1⟩, ⟨2, .w, .device, 2⟩, ⟨2, .w, .banksel, 0⟩, ⟨1, .r, .device, 0xA⟩, ⟨2, .r, .device, 0xB⟩]

/-- A Run state under the bank rule o, in context c with continuation k and pump flag p, at time 4. -/
def run (o : BankOor) (c : Ctx) (k : Option Cont) (p : Bool) : State :=
  { State.reset with
    params := { Params.default with bankOor := o, openBus := .lastDriven 0 }
    elapsed := 4
    geo := some geoG
    ranges := tables
    ports := (Vector.replicate 16 []).set 0 unit0
    banks := (Vector.replicate 16 none).set 0 (some ⟨2, 1, 0⟩)
    mem := [(0, 0x5A)]
    queue := [⟨1, 30, none, 0xA, 0, false⟩, ⟨2, 10, some 15, 0xD, 1, false⟩]
    nextId := 3
    nextSeq := 2
    cont := k
    pumping := p
    phase := .run
    ctx := c
    cmdCount := 9 }

/-- At Top, under BANK_OOR = Modulo. -/
def top : State := run .modulo .top none false

/-- A callback of event 7 is outstanding. -/
def inCallback : State := run .fault .callback (some (.callback 7)) true

/-- A DEVICE read of space 0 is outstanding. -/
def inHandler : State := run .ignore .handler (some (.devRead 0)) false

/-- The next state of an outcome, or the state before where there is none. -/
def after (s : State) (r : Result) : State :=
  match r with
  | .next t => t
  | .fault _ => s
  | .refused _ => s

/-! ## Single commands -/

/-- V2: a legal geometry is stored. -/
theorem test_cfg_geometry : (after conf (exec (.cfgGeometry 10 6 8 10 4 6) conf)).geo = some geoG := by
  decide +kernel

/-- V2: `CFG_GEOMETRY 10, 6, 11, 2, 4, 6` is BadGeometry; the record holds the command's index. -/
theorem test_cfg_geometry_bad :
    ((after conf (exec (.cfgGeometry 10 6 11 2 4 6) conf)).cfgError.map fun c => (c.kind, c.cmd)) =
      some (.badGeometry, 0) := by decide +kernel

/-- V2: S = 2^16 = 2^AWmax is legal, one more is BadBank. -/
theorem test_cfg_bank :
    bankAt (after conf (exec (.cfgBank 1 1 0x10000) conf)) 1 = some ⟨1, 0x10000, 0⟩ ∧
    (after conf (exec (.cfgBank 1 1 0x10001) conf)).phase = .failed := by decide +kernel

theorem test_cfg_portunit : unitPolicy (after conf (exec (.cfgPortunit 1 .first) conf)) 1 = .first ∧
    (after conf (exec (.cfgPortunit 4 .first) conf)).cfgError = some ⟨.badSelector, 0, [.word 4]⟩ := by
  decide +kernel

/-- V2: mask bits at or above AW are dropped; start above end is MalformedRange with info (0, 0x8400, 0x83FF). -/
theorem test_reg_range_mask :
    rangeTable (after conf (exec (.regRange 0 .r false .device 0x8000 0x83FF 0xFFFF8FFF 1) conf)) 0 .r =
      [⟨0x8000, 0x83FF, 0x8FFF, .device, 1, false⟩] ∧
    (after conf (exec (.regRange 0 .r false .device 0x8400 0x83FF 0xFFFF 1) conf)).cfgError =
      some ⟨.malformedRange, 0, [.word 0, .word 0x8400, .word 0x83FF]⟩ := by decide +kernel

/-- V2 and R152: the overlap record names the earlier entry, here the one-byte bank range. -/
theorem test_reg_range_overlap :
    (after conf (exec (.regRange 0 .r false .device 0x9000 0x90FF 0xFFFF 7)
      (after conf (exec (.regRange 0 .rw false .bank 0x8000 0x8000 0x8FFF 0) conf)))).cfgError =
      some ⟨.overlappingRange, 0, [.word 0x9000, .word 0x90FF, .word 0, .word 0x8000, .word 0x8000]⟩ := by
  decide +kernel

theorem test_reg_port : portList (after conf (exec (.regPort 0 .w .device 0 3) conf)) 0 =
    some [⟨0, .w, .device, 3⟩] ∧
    (after conf (exec (.regPort 0 .r .banksel 1 0) conf)).phase = .failed := by decide +kernel

theorem test_start : (after conf (exec .start conf)).cfgError = some ⟨.missingGeometry, 0, []⟩ ∧
    (after top (exec .start top)).fault = some ⟨.phase, 8⟩ := by decide +kernel

/-- V3: a mirror address reads the same cell. -/
theorem test_read_mirror : (after top (exec (.read 0 0 0x9000) top)).responses = [0x5A] := by decide +kernel

/-- V3: `READ.2 2, 0x10000` at Top faults with F_SELECTOR. -/
theorem test_read_checks : ((after top (exec (.read 2 1 0x10000) top)).fault.map (·.code)) = some .selector := by
  decide +kernel

/-- A write takes the byte to the active buffer and, under LastDriven, to the latch. -/
theorem test_write_bank : (after top (exec (.write 0 0 0x77 0xF000) top)).mem = [(0, 0x77)] ∧
    busLatchOf (after top (exec (.write 0 0 0x77 0xF000) top)) 0 = 0x77 := by decide +kernel

/-- V3: under Modulo the byte 2 on a slot of N = 2 selects buffer 0. -/
theorem test_write_banksel :
    (bankAt (after top (exec (.write 0 0 1 0x7000) top)) 0).map (·.sel) = some 1 ∧
    (bankAt (after top (exec (.write 0 0 2 0x7000) top)) 0).map (·.sel) = some 0 := by decide +kernel

/-- A STEP past the periodic event's deadline re-arms it a period later and invokes its callback. -/
theorem test_step_fires :
    (after top (exec (.step 6) top)).queue = [⟨1, 30, none, 0xA, 0, false⟩, ⟨2, 25, some 15, 0xD, 2, false⟩] ∧
    (after top (exec (.step 6) top)).trace = [.invCallback 0xD 2] := by decide +kernel

theorem test_step_context : ((after inHandler (exec (.step 0) inHandler)).fault.map (·.code)) = some .context := by
  decide +kernel

theorem test_rc_now : (after top (exec .rcNow top)).responses = [4] := by decide +kernel

/-- R221: `RC_SCANLINE 35` responds 3 and `RC_SCANLINE 125` responds 0. -/
theorem test_rc_scanline : (after top (exec (.rcScanline false 35) top)).responses = [3] ∧
    (after top (exec (.rcScanline false 125) top)).responses = [0] := by decide +kernel

theorem test_rc_hpos : (after top (exec (.rcHpos false 125) top)).responses = [5] := by decide +kernel

/-- R223: 0 at 7 and 1 at 8. -/
theorem test_rc_hblank : (after top (exec (.rcHblank false 7) top)).responses = [0] ∧
    (after top (exec (.rcHblank false 8) top)).responses = [1] := by decide +kernel

/-- R224: 0 at 39 and 1 at 40. -/
theorem test_rc_vblank : (after top (exec (.rcVblank false 39) top)).responses = [0] ∧
    (after top (exec (.rcVblank false 40) top)).responses = [1] := by decide +kernel

/-- R225: 1 at 40 and 0 at 48. -/
theorem test_rc_cblank : (after top (exec (.rcCblank false 40) top)).responses = [1] ∧
    (after top (exec (.rcCblank false 48) top)).responses = [0] := by decide +kernel

/-- R226: bit 0 of line 3 and bit 1 of line 2. -/
theorem test_rc_linebit : (after top (exec (.rcLinebit 0 false 35) top)).responses = [1] ∧
    (after top (exec (.rcLinebit 1 false 20) top)).responses = [1] := by decide +kernel

theorem test_sched_after : (after inCallback (exec (.schedAfter 240 0xC01) inCallback)).queue.getLast? =
    some ⟨3, 244, none, 0xC01, 2, true⟩ := by decide +kernel

theorem test_sched_periodic : (after top (exec (.schedPeriodic 60 7) top)).responses = [3] ∧
    ((after top (exec (.schedPeriodic 0 7) top)).fault.map (·.code)) = some .periodZero := by decide +kernel

theorem test_cancel : (after top (exec (.cancel 1) top)).queue = [⟨2, 10, some 15, 0xD, 1, false⟩] ∧
    (after top (exec (.cancel 0) top)).queue = top.queue := by decide +kernel

theorem test_bank_select :
    (bankAt (after inHandler (exec (.bankSelect 0 1) inHandler)) 0).map (·.sel) = some 1 ∧
    ((after inCallback (exec (.bankSelect 0 2) inCallback)).fault.map (·.code)) = some .bankIndex := by
  decide +kernel

theorem test_bank_active : (after top (exec (.bankActive 0) top)).responses = [0] ∧
    ((after top (exec (.bankActive 1) top)).fault.map (·.code)) = some .selector := by decide +kernel

/-- V3: a DEVICE read responds the byte of HRET. -/
theorem test_hret : (after inHandler (exec (.hret 0x99) inHandler)).responses = [0x99] ∧
    ((after top (exec (.hret 0) top)).fault.map (·.code)) = some .context := by decide +kernel

/-- R117: MAP_RAM and SCHED_FRAMES. -/
theorem test_pseudo :
    expandPseudo (fun _ => 16) none (.mapRam 0 0x8000 0x83FF 0x8FFF 0) =
      some [.cfgBank 0 1 0x400, .regRange 0 .rw false .bank 0x8000 0x83FF 0x8FFF 0] ∧
    expandPseudo (fun _ => 16) (some geoG) (.schedFrames 4 0xC1) = some [.schedAfter 240 0xC1] := by decide +kernel

/-- The machine runs a group placed at its interface. -/
theorem test_step_runs :
    (after State.reset (step (State.reset.withFetchWord 96 0x000000000400000200000002))).banks[0] =
      some ⟨2, 0x400, 0⟩ := by decide +kernel

/-- R324, log 25: the word an unassigned opcode leaves behind does not keep the reset away. -/
theorem test_reset_after_fault :
    (after top (step (after top (step { top with inbox := [.header 0x80, .operand 5, .reset] })))).phase = .config := by
  decide +kernel

/-! ## A good state -/

/-- The contexts in which the small Run state is good. -/
def GoodCtx (c : Ctx) (k : Option Cont) (p : Bool) : Prop :=
  (c = .top ∧ k = none ∧ p = false) ∨ (c = .handler ∧ k = some (.devRead 0) ∧ p = false) ∨
    (c = .callback ∧ k = some (.callback 7) ∧ p = true)

theorem fold_one (x m a : Word32) (h : x &&& m = x) (h1 : x.toNat ≤ a.toNat) (h2 : a.toNat ≤ x.toNat) :
    a &&& m = a := by
  have : a = x := BitVec.eq_of_toNat_eq (by omega)
  rw [this, h]

theorem fold_four (a : Word32) (h : a.toNat ≤ 3) : a &&& 3 = a := by
  have ha : a = BitVec.ofNat 32 a.toNat := by simp
  have hk : ∀ n ≤ 3, BitVec.ofNat 32 n &&& 3 = BitVec.ofNat 32 n := by decide
  rw [ha]
  exact hk _ h

theorem default_legal : Params.default.Legal := by decide

theorem params_legal (o : BankOor) (c : Ctx) (k : Option Cont) (p : Bool) : (run o c k p).params.Legal :=
  default_legal

theorem rangeTable_run (o : BankOor) (c : Ctx) (k : Option Cont) (p : Bool) (sp : Sel) (d : Dir) :
    rangeTable (run o c k p) sp d =
      if sp = 0 then (match d with
        | .r => [⟨0x8000, 0x8000, 0x8FFF, .bank, 0, false⟩, ⟨0x4000, 0x4000, 0xFFFF, .device, 3, true⟩]
        | .w => [⟨0x8000, 0x8000, 0x8FFF, .bank, 0, false⟩, ⟨0x7000, 0x7000, 0xFFFF, .banksel, 0, true⟩,
            ⟨0x4000, 0x4000, 0xFFFF, .device, 3, true⟩])
      else if sp = 1 then [⟨0, 3, 3, .ports, 0, false⟩] else [] := by
  have : ∀ (sp : Sel) (d : Dir), rangeTable (run .fault .top none false) sp d = if sp = 0 then (match d with
        | .r => [⟨0x8000, 0x8000, 0x8FFF, .bank, 0, false⟩, ⟨0x4000, 0x4000, 0xFFFF, .device, 3, true⟩]
        | .w => [⟨0x8000, 0x8000, 0x8FFF, .bank, 0, false⟩, ⟨0x7000, 0x7000, 0xFFFF, .banksel, 0, true⟩,
            ⟨0x4000, 0x4000, 0xFFFF, .device, 3, true⟩])
      else if sp = 1 then [⟨0, 3, 3, .ports, 0, false⟩] else [] := by
    intro sp d
    obtain ⟨⟨n, hn⟩⟩ := sp
    cases d <;> interval_cases n <;> rfl
  exact this sp d

theorem bankAt_run (o : BankOor) (c : Ctx) (k : Option Cont) (p : Bool) (b : Nat) :
    bankAt (run o c k p) b = if b = 0 then some ⟨2, 1, 0⟩ else none := by
  by_cases hb : b < 16
  · interval_cases b <;> rfl
  · have : (run o c k p).banks[b]? = none := Vector.getElem?_eq_none (by omega)
    rw [bankAt, this, if_neg (by omega)]
    rfl

theorem portList_run (o : BankOor) (c : Ctx) (k : Option Cont) (p : Bool) (u : Nat) :
    portList (run o c k p) u = if u = 0 then some unit0 else if u < 16 then some [] else none := by
  by_cases hb : u < 16
  · interval_cases u <;> rfl
  · have : (run o c k p).ports[u]? = none := Vector.getElem?_eq_none (by omega)
    rw [portList, this, if_neg (by omega), if_neg hb]

theorem spaceAw_run (o : BankOor) (c : Ctx) (k : Option Cont) (p : Bool) (sp : Sel) :
    spaceAw (run o c k p) sp = 16 := by
  simp [spaceAw, run, Params.default]

theorem run_inv {o : BankOor} {c : Ctx} {k : Option Cont} {p : Bool} (h : GoodCtx c k p) : Inv (run o c k p) where
  params := params_legal o c k p
  geoLegal := by
    intro g hg
    cases hg
    decide
  geoSet := fun _ => rfl
  ranges := by
    intro sp d e he
    have haw := spaceAw_run o c k p sp
    rw [rangeTable_run] at he
    have bank : ∀ d, RangeLegal (run o c k p) sp d ⟨0x8000, 0x8000, 0x8FFF, .bank, 0, false⟩ := fun d =>
      ⟨by decide, by rw [haw]; decide, by rw [haw]; decide, fun a h1 h2 => fold_one _ _ a rfl h1 h2,
        ⟨_, by rw [bankAt_run]; rfl, rfl⟩⟩
    have dev : ∀ d, RangeLegal (run o c k p) sp d ⟨0x4000, 0x4000, 0xFFFF, .device, 3, true⟩ := fun d =>
      ⟨by decide, by rw [haw]; decide, by rw [haw]; decide, fun a h1 h2 => fold_one _ _ a rfl h1 h2, trivial⟩
    have sel : RangeLegal (run o c k p) sp .w ⟨0x7000, 0x7000, 0xFFFF, .banksel, 0, true⟩ :=
      ⟨by decide, by rw [haw]; decide, by rw [haw]; decide, fun a h1 h2 => fold_one _ _ a rfl h1 h2,
        rfl, by rw [bankAt_run]; rfl⟩
    have ports : ∀ d, RangeLegal (run o c k p) sp d ⟨0, 3, 3, .ports, 0, false⟩ := fun d =>
      ⟨by decide, by rw [haw]; decide, by rw [haw]; decide, fun a _ h2 => fold_four a h2,
        show 0 < 4 by decide⟩
    split_ifs at he
    · cases d
      · simp only [List.mem_cons, List.not_mem_nil, or_false] at he
        rcases he with rfl | rfl
        · exact bank _
        · exact dev _
      · simp only [List.mem_cons, List.not_mem_nil, or_false] at he
        rcases he with rfl | rfl | rfl
        · exact bank _
        · exact sel
        · exact dev _
    · simp only [List.mem_cons, List.not_mem_nil, or_false] at he
      subst he
      exact ports _
    · cases he
  overrides := by
    intro sp d
    rw [rangeTable_run]
    split_ifs
    · cases d <;> simp
    · simp
    · simp
  rangeCap := by
    intro sp d
    rw [rangeTable_run]
    split_ifs
    · cases d <;> simp [run, Params.default]
    · simp [run, Params.default]
    · simp
  rangeUnused := by
    intro sp d hsp
    have h2 : 2 ≤ sp.toNat := hsp
    rw [rangeTable_run, if_neg, if_neg]
    · rintro rfl
      simp at h2
    · rintro rfl
      simp at h2
  ports := by
    intro u es hes
    rw [portList_run] at hes
    split_ifs at hes
    · cases hes
      refine ⟨?_, show 5 ≤ 32 by decide⟩
      intro e he
      simp only [unit0, List.mem_cons, List.not_mem_nil, or_false] at he
      rcases he with rfl | rfl | rfl | rfl | rfl
      · exact .inl rfl
      · exact .inl rfl
      · exact .inr ⟨rfl, rfl, by rw [bankAt_run]; rfl⟩
      · exact .inl rfl
      · exact .inl rfl
    · cases hes
      exact ⟨by simp, by simp⟩
  banks := by
    intro b k' hk
    rw [bankAt_run] at hk
    split_ifs at hk with hb
    subst hb
    cases hk
    have : (run o c k p).params.awMax = 16 := by rfl
    exact ⟨show 0 < 4 by decide, by decide, by decide, by rw [this]; decide, by decide⟩
  queue := by rfl
  mem := by rfl
  memCells := by
    intro c' hc
    have hc : c' ∈ [((0 : Nat), (0x5A : Byte))] := hc
    simp only [List.mem_cons, List.not_mem_nil, or_false] at hc
    subst hc
    rfl
  ctxTop := by rcases h with ⟨rfl, rfl, rfl⟩ | ⟨rfl, rfl, rfl⟩ | ⟨rfl, rfl, rfl⟩ <;> simp [run]
  ctxCallback := by rcases h with ⟨rfl, rfl, rfl⟩ | ⟨rfl, rfl, rfl⟩ | ⟨rfl, rfl, rfl⟩ <;> simp [run]
  contLegal := by
    intro k' hk
    rcases h with ⟨rfl, rfl, rfl⟩ | ⟨rfl, rfl, rfl⟩ | ⟨rfl, rfl, rfl⟩ <;> cases hk <;> trivial
  ctxPhase := fun _ => .inl rfl
  pump := by rcases h with ⟨rfl, rfl, rfl⟩ | ⟨rfl, rfl, rfl⟩ | ⟨rfl, rfl, rfl⟩ <;> simp [run]
  configTime := fun h => by cases h
  cfgError := by simp [run, State.reset, State.resetWith]
  fault := by simp [run, State.reset, State.resetWith]

/-! ## Witnesses: for each statement with hypotheses, a state and operands that meet them all together -/

def eBank : RangeEntry := ⟨0x8000, 0x8000, 0x8FFF, .bank, 0, false⟩
def eDev : RangeEntry := ⟨0x4000, 0x4000, 0xFFFF, .device, 3, true⟩
def eSel : RangeEntry := ⟨0x7000, 0x7000, 0xFFFF, .banksel, 0, true⟩
def ePorts : RangeEntry := ⟨0, 3, 3, .ports, 0, false⟩

theorem inv_top : Inv top := run_inv (.inl ⟨rfl, rfl, rfl⟩)
theorem inv_inHandler : Inv inHandler := run_inv (.inr (.inl ⟨rfl, rfl, rfl⟩))
theorem inv_inCallback : Inv inCallback := run_inv (.inr (.inr ⟨rfl, rfl, rfl⟩))

/-- A phase with no commands. -/
def failed : State := after conf (exec .start conf)

theorem witness_DecodeOfEncode : (Instr.rcLinebit 6 true 0).wf = true ∧
    (Instr.regRange 15 .rw true .banksel 0xFFFFFFFF 0 0xFFFFFFFF 0xFFFF).wf = true := by decide

theorem witness_EncodeOfDecode :
    decodeGroup 0x04003004 [0x000083FF00008000, 0x8FFF] = .ok (.regRange 0 .rw false .bank 0x8000 0x83FF 0x8FFF 0) := by
  rfl

/-- A header bit and an operand bit. -/
theorem witness_ReservedBitFaults :
    (Opcode.ofByte (hOp 0x10000006) = some .start ∧ ([] : List Word64).length = Opcode.start.len ∧ 8 ≤ 28 ∧
      Opcode.start.headerMask.getLsbD 28 = true ∧ (0x10000006 : Word32).getLsbD 28 = true) ∧
    (Opcode.ofByte (hOp 0x00000002) = some .cfgBank ∧ ([0x0001000004000001] : List Word64).length = Opcode.cfgBank.len ∧
      ([0x0001000004000001] : List Word64)[0]? = some 0x0001000004000001 ∧
      Opcode.cfgBank.operandBits[0]? = some 0x0000FFFFFFFFFFFF ∧ (0x0001000004000001 : Word64).getLsbD 48 = true ∧
      (0x0000FFFFFFFFFFFF : Word64).getLsbD 48 = false) := by decide +kernel

theorem witness_StepRunsDecodedGroup :
    ({ top with inbox := [.header 0x12, .operand 7, .save] } : State).inbox = groupInputs (0x12, [7]) ++ [.save] ∧
    decodeGroup 0x12 [7] = .ok (.step 7) ∧ top.halted = false ∧ top.cmdCount ≠ BitVec.allOnes 64 :=
  ⟨rfl, rfl, rfl, by decide⟩

theorem witness_StepFaultsOnIllegalGroup :
    ({ top with inbox := [.header 0x112, .operand 5] } : State).inbox = groupInputs (0x112, [5]) ++ [] ∧
    [(5 : Word64)].length = operandCount 0x112 ∧ decodeGroup 0x112 [5] = .error .reservedHeader ∧
    operandCount 0x80 = 0 ∧ decodeGroup 0x80 [] = .error .unassignedOp ∧ top.halted = false :=
  ⟨rfl, rfl, rfl, rfl, rfl, rfl⟩

/-- Nothing but words and a restore; a save and a reset behind words. -/
theorem witness_TerminalPhases : failed.phase = .failed ∧
    step { failed with inbox := [.operand 5, .restore (takeSnapshot conf)] } = .fault .halted ∧
    step { failed with inbox := [.operand 5, .save, .reset] } =
      .next { failed with inbox := [.operand 5, .reset], saves := [takeSnapshot failed] } ∧
    step { failed with inbox := [.operand 5, .header 6, .reset, .header 6] } =
      .next { State.resetWith failed.params with inbox := [.header 6], draws := 1 } :=
  ⟨by decide +kernel, rfl, rfl, rfl⟩

/-- One command refused by its phase, one by its context, one accepted that faults otherwise. -/
theorem witness_AcceptedCommands :
    (top.phase = .run ∧ top.phase ∉ phasesOf .start) ∧
    (inHandler.phase = .run ∧ inHandler.phase ∈ phasesOf (.step 0) ∧ inHandler.ctx ∉ contextsOf (.step 0)) ∧
    (top.phase ∈ phasesOf (.bankActive 1) ∧ top.ctx ∈ contextsOf (.bankActive 1) ∧ top.fault = none ∧
      exec (.bankActive 1) top = .next (afterFault .selector top)) :=
  ⟨by decide, by decide, by decide, by decide, by decide, rfl⟩

theorem witness_FaultRecord : top.halted = false ∧ top.cmdCount ≠ 0 ∧
    exec (.bankActive 1) top = .next (afterFault .selector top) ∧ (afterFault .selector top).phase = .faulted :=
  ⟨rfl, by decide, rfl, rfl⟩

theorem witness_ConfigErrorRecord : conf.halted = false ∧ conf.cmdCount ≠ 0 ∧
    exec .start conf = .next (afterConfigError .missingGeometry [] conf) ∧
    (afterConfigError .missingGeometry [] conf).phase = .failed := ⟨rfl, by decide, rfl, rfl⟩

/-- The bounds themselves: HBS = CPL, VBE = LPF; a legal command before it and one that fails. -/
theorem witness_CfgGeometryReplaces : conf.phase = .config ∧ (1 : Nat) ≤ (10 : Word32).toNat ∧
    (1 : Nat) ≤ (6 : Word32).toNat ∧ (10 : Word32).toNat ≤ (10 : Word32).toNat ∧ (6 : Word32).toNat ≤ (6 : Word32).toNat ∧
    exec (.cfgGeometry 1 1 0 0 0 0) conf = .next { conf with geo := some ⟨1, 1, 0, 0, 0, 0⟩ } :=
  ⟨rfl, by decide, by decide, by decide, by decide, rfl⟩

/-- S at its greatest value, 2^AWmax. -/
theorem witness_CfgBankMakesSlot : conf.phase = .config ∧ (3 : Sel).toNat < conf.params.numBanks ∧
    bankAt conf (3 : Sel).toNat = none ∧ (1 : Word16) ≠ 0 ∧ (0x10000 : Word32) ≠ 0 ∧
    (0x10000 : Word32).toNat ≤ 2 ^ conf.params.awMax := by decide +kernel

/-- A unit whose list is full. -/
def confFull : State :=
  { conf with ports := conf.ports.set 0 (List.replicate 32 ⟨1, .r, .device, 1⟩) }

/-- Each check at the least value that fails it. -/
theorem witness_RegistrationChecks : conf.phase = .config ∧
    ¬(1 ≤ (10 : Word32).toNat ∧ 1 ≤ (6 : Word32).toNat ∧ (11 : Word32).toNat ≤ (10 : Word32).toNat) ∧
    conf.params.numBanks ≤ (4 : Sel).toNat ∧ (0 : Sel).toNat < conf.params.numBanks ∧
    bankAt conf (0 : Sel).toNat ≠ none ∧ bankAt conf (1 : Sel).toNat = none ∧
    2 ^ conf.params.awMax < (0x10001 : Word32).toNat ∧
    conf.params.numPortUnits ≤ (4 : Sel).toNat ∧ (3 : Sel).toNat < conf.params.numPortUnits ∧
    ¬(TKind.banksel = .device ∨ (TKind.banksel = .banksel ∧ DirSet.r = .w)) ∧
    confFull.phase = .config ∧ (confFull.ports[(0 : Sel).toNat]'(0 : Sel).isLt).length = confFull.params.maxPortEntries ∧
    conf.geo = none := by decide +kernel

theorem witness_PortSetupAndStart : conf.phase = .config ∧ (3 : Sel).toNat < conf.params.numPortUnits ∧
    (conf.ports[(3 : Sel).toNat]'(3 : Sel).isLt).length ≠ conf.params.maxPortEntries ∧
    (0 : Word16).toNat < conf.params.numBanks ∧ bankAt conf (0 : Word16).toNat ≠ none ∧
    ({ conf with geo := some geoG } : State).geo = some geoG := by decide +kernel

/-- A one-address bank range at the top of the space, in both tables. -/
theorem witness_RegRangeAppends : conf.phase = .config ∧ (1 : Sel).toNat < conf.params.numSpaces ∧
    (0xFFFF : Word32).toNat ≤ (0xFFFF : Word32).toNat ∧ (0xFFFF : Word32).toNat < 2 ^ spaceAw conf 1 ∧
    (∀ a : Word32, (0xFFFF : Word32).toNat ≤ a.toNat → a.toNat ≤ (0xFFFF : Word32).toNat → a &&& 0xFFFF = a) ∧
    ((0 : Word16).toNat < conf.params.numBanks ∧ ∃ k, bankAt conf (0 : Word16).toNat = some k ∧
      k.size.toNat = (0xFFFF : Word32).toNat - (0xFFFF : Word32).toNat + 1) ∧
    (∀ d ∈ DirSet.rw.dirs, (rangeTable conf 1 d).length ≠ conf.params.maxRanges) ∧
    (∀ d ∈ DirSet.rw.dirs, rangeTable conf 1 d = []) :=
  ⟨rfl, by decide, by decide, by decide, fun a h1 h2 => fold_one _ _ a rfl h1 h2,
    ⟨by decide, ⟨2, 1, 0⟩, rfl, rfl⟩, by decide +kernel, by decide +kernel⟩

/-- A space whose R table is full. -/
def confFullRange : State :=
  { conf with ranges := conf.ranges.set 0 ⟨List.replicate 256 eDev, []⟩ }

/-- Each check at the least value that fails it. -/
theorem witness_RegRangeChecks : conf.phase = .config ∧ conf.params.numSpaces ≤ (2 : Sel).toNat ∧
    (1 : Sel).toNat < conf.params.numSpaces ∧ (0 : Word32).toNat < (1 : Word32).toNat ∧
    2 ^ spaceAw conf 1 ≤ (0x10000 : Word32).toNat ∧
    (0x8000 : Word32) &&& ((0x0FFF : Word32) &&& lowMask (spaceAw conf 1)) ≠ 0x8000 ∧
    (∀ a : Word32, (0x8000 : Word32).toNat ≤ a.toNat → a.toNat ≤ (0x8000 : Word32).toNat →
      a &&& ((0xFFFF : Word32) &&& lowMask (spaceAw conf 1)) = a) ∧
    targetOk conf .bank 1 .r 1 = false ∧ targetOk conf .device 9 .rw 1 = true ∧
    confFullRange.phase = .config ∧ (rangeTable confFullRange 0 .r).length = confFullRange.params.maxRanges :=
  ⟨rfl, by decide, by decide, by decide, by decide, by decide, fun a h1 h2 => fold_one _ _ a rfl h1 h2,
    by decide, by decide, rfl, by decide +kernel⟩

/-- Phase Config with one range in space 0. -/
def confRange : State := { conf with ranges := conf.ranges.set 0 ⟨[eBank], []⟩ }

theorem witness_RegRangeOverlap : confRange.phase = .config ∧ (0 : Sel).toNat < confRange.params.numSpaces ∧
    (0x9000 : Word32).toNat < 2 ^ spaceAw confRange 0 ∧
    (∀ x : Word32, (0x9000 : Word32).toNat ≤ x.toNat → x.toNat ≤ (0x9000 : Word32).toNat →
      x &&& ((0xFFFF : Word32) &&& lowMask (spaceAw confRange 0)) = x) ∧
    targetOk confRange .device 7 .r 1 = true ∧
    (∀ d ∈ DirSet.r.dirs, (rangeTable confRange 0 d).length ≠ confRange.params.maxRanges) ∧
    Dir.r ∈ DirSet.r.dirs ∧ (rangeTable confRange 0 .r)[0]? = some eBank ∧
    covers (spaceAw confRange 0) eBank 0x9000 = true ∧
    covers (spaceAw confRange 0) ⟨0x9000, 0x9000, 0xFFFF &&& lowMask (spaceAw confRange 0), .device, 7, false⟩ 0x9000 =
      true :=
  ⟨rfl, by decide, by decide, fun a h1 h2 => fold_one _ _ a rfl h1 h2, by decide, by decide +kernel, by decide,
    by decide +kernel, by decide +kernel, by decide +kernel⟩

/-- A mirror address of the range, and an address no range covers. -/
theorem witness_LookupLatestWins : Inv top ∧ lookup top 0 .r 0xF000 = some eBank ∧ lookup top 0 .r 0x8001 = none ∧
    (∀ e ∈ rangeTable top 1 .r, e.ovr = false) ∧ (rangeTable top 1 .r)[0]? = some ePorts ∧
    covers (spaceAw top 1) ePorts 0xFFFF = true :=
  ⟨inv_top, by decide +kernel, by decide +kernel, by decide +kernel, by decide +kernel, by decide +kernel⟩

/-- Each check at its boundary value. -/
theorem witness_AccessChecks : conf.phase = .config ∧ inHandler.phase = .run ∧ inHandler.ctx ≠ .top ∧
    top.phase = .run ∧ top.ctx = .top ∧ top.params.numSpaces ≤ (2 : Sel).toNat ∧ (1 : Sel).toNat < top.params.numSpaces ∧
    (1 : BitVec 2) ≠ 0 ∧ 2 ^ spaceAw top 1 ≤ (0x10000 : Word32).toNat := by decide +kernel

theorem accessOk_top (sp : Sel) (a : Word32) (h : sp.toNat < 2) (ha : a.toNat < 65536) : AccessOk top sp 0 a :=
  ⟨rfl, rfl, h, rfl, by rw [show spaceAw top sp = 16 from spaceAw_run ..]; exact ha⟩

/-- The small Run state with buffer 1, which nothing wrote, selected. -/
def topSel1 : State := { top with banks := top.banks.set 0 (some ⟨2, 1, 1⟩) }

theorem sameShape_topSel1 : SameShape top topSel1 := by
  intro b
  by_cases hb : b < 16
  · interval_cases b <;> rfl
  · simp [bankAt, hb]

theorem inv_topSel1 : Inv topSel1 :=
  { inv_top with
    ranges := fun sp d e he => RangeLegal.transfer (s := top) rfl sameShape_topSel1 (inv_top.ranges sp d e he)
    ports := fun u es hes =>
      ⟨fun e he => PortLegal.transfer (s := top) sameShape_topSel1 ((inv_top.ports u es hes).1 e he), (inv_top.ports u es hes).2⟩
    banks := by
      intro b k hk
      have : b = 0 ∧ k = ⟨2, 1, 1⟩ := by
        by_cases hb : b < 16
        · interval_cases b <;> first | exact ⟨rfl, (Option.some.inj hk).symm⟩ | cases hk
        · simp [bankAt, hb] at hk
      obtain ⟨rfl, rfl⟩ := this
      exact ⟨show 0 < 4 by decide, by decide, by decide,
        by rw [show topSel1.params.awMax = 16 from rfl]; decide, by decide⟩
    memCells := by
      intro c hc
      have hc : c ∈ [((0 : Nat), (0x5A : Byte))] := hc
      simp only [List.mem_cons, List.not_mem_nil, or_false] at hc
      subst hc
      rfl }

/-- A written cell, and in buffer 1 one that nothing wrote. -/
theorem witness_ReadBankCell :
    (Inv top ∧ AccessOk top 0 0 0x9000 ∧ lookup top 0 .r 0x9000 = some eBank ∧ eBank.tkind = .bank ∧
      top.cell 0 0 (rangeOffset 0x9000 eBank) = some 0x5A) ∧
    (Inv topSel1 ∧ lookup topSel1 0 .r 0x9000 = some eBank ∧ topSel1.cell 0 1 (rangeOffset 0x9000 eBank) = none) :=
  ⟨⟨inv_top, accessOk_top _ _ (by decide) (by decide), by decide +kernel, rfl, by decide +kernel⟩, inv_topSel1,
    by decide +kernel, by decide +kernel⟩

theorem witness_WriteBankCell : Inv top ∧ AccessOk top 0 0 0xF000 ∧ lookup top 0 .w 0xF000 = some eBank ∧
    eBank.tkind = .bank :=
  ⟨inv_top, accessOk_top _ _ (by decide) (by decide), by decide +kernel, rfl⟩

/-- Two mirrors of one cell. -/
theorem witness_ReadAfterWriteThroughMirror : Inv top ∧ AccessOk top 0 0 0x8000 ∧ AccessOk top 0 0 0xF000 ∧
    lookup top 0 .w 0x8000 = some eBank ∧ lookup top 0 .r 0xF000 = some eBank ∧
    rangeOffset 0xF000 eBank = rangeOffset 0x8000 eBank :=
  ⟨inv_top, accessOk_top _ _ (by decide) (by decide), accessOk_top _ _ (by decide) (by decide), by decide +kernel,
    by decide +kernel, by decide⟩

theorem witness_DeviceAccessInvokes : AccessOk top 0 0 0x4000 ∧ eDev.tkind = .device ∧
    lookup top 0 .r 0x4000 = some eDev ∧ lookup top 0 .w 0x4000 = some eDev :=
  ⟨accessOk_top _ _ (by decide) (by decide), rfl, by decide +kernel, by decide +kernel⟩

/-- The last address of the space. -/
theorem witness_UnmappedAccess : AccessOk top 0 0 0xFFFF ∧ lookup top 0 .r 0xFFFF = none ∧
    lookup top 0 .w 0xFFFF = none :=
  ⟨accessOk_top _ _ (by decide) (by decide), by decide +kernel, by decide +kernel⟩

/-- At Top, under BANK_OOR = Fault. -/
def topFault : State := run .fault .top none false

theorem inv_topFault : Inv topFault := run_inv (.inl ⟨rfl, rfl, rfl⟩)

/-- Offset 3 reaches both devices and the selector: with N under Modulo, and with N - 1 under Fault. -/
theorem witness_WriteDispatchInvokesAll : Inv top ∧ AccessOk top 1 0 3 ∧ top.params.bankOor = .modulo ∧
    lookup top 1 .w 3 = some ePorts ∧ ePorts.tkind = .ports ∧ portList top ePorts.tid.toNat = some unit0 ∧
    ([0, 0] : List Byte).length = (invoked .w (rangeOffset 3 ePorts) unit0).length ∧
    Inv topFault ∧ AccessOk topFault 1 0 3 ∧ topFault.params.bankOor = .fault ∧
    lookup topFault 1 .w 3 = some ePorts ∧ portList topFault ePorts.tid.toNat = some unit0 ∧
    bankAt topFault (0 : Word16).toNat = some ⟨2, 1, 0⟩ ∧ (1 : Byte).toNat < (2 : Word16).toNat :=
  ⟨inv_top, accessOk_top _ _ (by decide) (by decide), rfl, by decide +kernel, rfl, by decide +kernel,
    by decide +kernel, inv_topFault, ⟨rfl, rfl, by decide, rfl, by decide⟩, rfl, by decide +kernel, by decide +kernel,
    rfl, by decide⟩

theorem witness_ReadDispatchInvokesAll : Inv top ∧ AccessOk top 1 0 3 ∧ lookup top 1 .r 3 = some ePorts ∧
    portList top ePorts.tid.toNat = some unit0 ∧
    ([0x11, 0x22] : List Byte).length = (invoked .r (rangeOffset 3 ePorts) unit0).length :=
  ⟨inv_top, accessOk_top _ _ (by decide) (by decide), by decide +kernel, by decide +kernel, by decide +kernel⟩

/-- The byte N at the selector, behind both devices (offset 3) and behind one that does not match and one that does
(offset 2). -/
theorem witness_WriteDispatchFaultStops : Inv topFault ∧ AccessOk topFault 1 0 3 ∧ AccessOk topFault 1 0 2 ∧
    topFault.params.bankOor = .fault ∧ lookup topFault 1 .w 3 = some ePorts ∧ lookup topFault 1 .w 2 = some ePorts ∧
    portList topFault ePorts.tid.toNat =
      some ([⟨1, .w, .device, 1⟩, ⟨2, .w, .device, 2⟩] ++ (⟨2, .w, .banksel, 0⟩ : PortEntry) ::
        [⟨1, .r, .device, 0xA⟩, ⟨2, .r, .device, 0xB⟩]) ∧
    ([0, 0] : List Byte).length = (invoked .w (rangeOffset 3 ePorts) (unit0.take 2)).length ∧
    ([0] : List Byte).length = (invoked .w (rangeOffset 2 ePorts) (unit0.take 2)).length ∧
    portMatches .w (rangeOffset 3 ePorts) ⟨2, .w, .banksel, 0⟩ = true ∧
    portMatches .w (rangeOffset 2 ePorts) ⟨2, .w, .banksel, 0⟩ = true ∧
    bankAt topFault (0 : Word16).toNat = some ⟨2, 1, 0⟩ ∧ (2 : Word16).toNat ≤ (2 : Byte).toNat :=
  ⟨inv_topFault, ⟨rfl, rfl, by decide, rfl, by decide⟩, ⟨rfl, rfl, by decide, rfl, by decide⟩, rfl, by decide +kernel,
    by decide +kernel, by decide +kernel, by decide +kernel, by decide +kernel, by decide +kernel, by decide +kernel,
    rfl, by decide⟩

/-- Offset 0 of the unit. -/
theorem witness_PortAccessMatchingNothing : AccessOk top 1 0 0 ∧ ePorts.tkind = .ports ∧
    portList top ePorts.tid.toNat = some unit0 ∧ lookup top 1 .w 0 = some ePorts ∧ lookup top 1 .r 0 = some ePorts ∧
    (∀ p ∈ unit0, portMatches .w (rangeOffset 0 ePorts) p = false) ∧
    ∀ p ∈ unit0, portMatches .r (rangeOffset 0 ePorts) p = false :=
  ⟨accessOk_top _ _ (by decide) (by decide), rfl, by decide +kernel, by decide +kernel, by decide +kernel,
    by decide +kernel, by decide +kernel⟩

theorem witness_RasterQueries : top.phase = .run ∧ top.geo = some geoG ∧
    (4 : Nat) = (if true then top.elapsed.toNat else (0 : Word64).toNat) ∧
    ∃ win : Nat → Nat → Nat → Bool,
      ∀ x ws we, win x ws we = true ↔ if ws ≤ we then ws ≤ x ∧ x < we else x ≥ ws ∨ x < we :=
  ⟨rfl, rfl, rfl, fun x ws we => if ws ≤ we then decide (ws ≤ x ∧ x < we) else decide (x ≥ ws ∨ x < we), by
    intro x ws we
    dsimp only
    split_ifs <;> simp⟩

theorem witness_RasterFramePeriod : geoG.Legal ∧ (⟨1, 1, 0, 1, 1, 0⟩ : Geometry).Legal := by decide

/-- Windows that wrap, that end with the line and the frame, that start there, and each kind that never changes. -/
theorem witness_BlankTransitions :
    (⟨10, 6, 8, 2, 5, 1⟩ : Geometry).Legal ∧ 5 % 6 ≠ 1 % 6 ∧ 8 % 10 ≠ 2 % 10 ∧
    geoG.Legal ∧ geoG.vbs.toNat % geoG.lpf.toNat ≠ geoG.vbe.toNat % geoG.lpf.toNat ∧
    geoG.hbs.toNat % geoG.cpl.toNat ≠ geoG.hbe.toNat % geoG.cpl.toNat ∧
    (⟨10, 6, 10, 3, 6, 2⟩ : Geometry).Legal ∧ 6 % 6 ≠ 2 % 6 ∧ 10 % 10 ≠ 3 % 10 ∧
    (⟨10, 6, 10, 10, 6, 6⟩ : Geometry).Legal ∧ (⟨10, 6, 10, 0, 6, 0⟩ : Geometry).Legal ∧
    (⟨10, 6, 0, 10, 0, 6⟩ : Geometry).Legal := by decide

/-- n = 3 is the bit length of LPF - 1 = 5. -/
theorem witness_LineBit : geoG.Legal ∧ geoG.lpf.toNat - 1 < 2 ^ 3 ∧ ¬geoG.lpf.toNat - 1 < 2 ^ 2 := by decide

theorem witness_StatusOutputs : top.phase = .run ∧ top.geo = some geoG ∧ geoG.Legal ∧ conf.phase ≠ .run := by
  decide

/-- The greatest delay that is legal. -/
theorem witness_ScheduleArms : top.phase = .run ∧
    top.elapsed.toNat + (0xFFFFFFFFFFFFFFFB : Word64).toNat < 2 ^ 64 ∧ top.queue.length ≠ top.params.maxEvents ∧
    top.nextId ≠ 0 ∧ top.nextSeq ≠ BitVec.allOnes 64 ∧ (∀ e ∈ top.queue, e.id ≠ top.nextId) ∧ (1 : Word64) ≠ 0 := by
  decide +kernel

/-- States in which each counter or the queue is used up, and the least delay that overflows. -/
theorem witness_ScheduleChecks : top.phase = .run ∧ 2 ^ 64 ≤ top.elapsed.toNat + (0xFFFFFFFFFFFFFFFC : Word64).toNat ∧
    ({ top with queue := List.replicate 64 ⟨1, 30, none, 0xA, 0, false⟩ } : State).queue.length = top.params.maxEvents ∧
    ({ top with nextId := 0 } : State).nextId = 0 ∧
    ({ top with nextSeq := BitVec.allOnes 64 } : State).nextSeq = BitVec.allOnes 64 := by decide +kernel

theorem witness_CancelRemoves : top.phase = .run ∧ (∀ e ∈ top.queue, e.id ≠ 9) ∧ Inv top ∧
    ∃ e ∈ top.queue, e.id = 2 ∧ exec (.cancel 2) top = .next (after top (exec (.cancel 2) top)) :=
  ⟨rfl, by decide +kernel, inv_top, ⟨2, 10, some 15, 0xD, 1, false⟩, by decide +kernel, rfl, rfl⟩

/-- One cycle short of the first deadline, and the least count that overflows. -/
theorem witness_StepAdvancesTime : top.phase = .run ∧ top.ctx = .top ∧
    2 ^ 64 ≤ top.elapsed.toNat + (0xFFFFFFFFFFFFFFFC : Word64).toNat ∧ top.elapsed.toNat + (5 : Word64).toNat < 2 ^ 64 ∧
    ∀ e ∈ top.queue, top.elapsed.toNat + (5 : Word64).toNat < e.deadline.toNat := by decide +kernel

/-- The small Run state with two one-shot events at one deadline. -/
def topTie : State := { top with queue := [⟨2, 10, none, 0xB, 1, true⟩, ⟨1, 10, none, 0xA, 0, false⟩] }

theorem inv_topTie : Inv topTie :=
  inv_top.withQueue _ _ _ rfl

/-- The small Run state with a periodic event whose next deadline is 2^64. -/
def topRearm : State := { top with queue := [⟨2, 10, some 0xFFFFFFFFFFFFFFF6, 0xD, 1, false⟩] }

theorem inv_topRearm : Inv topRearm :=
  inv_top.withQueue _ _ _ rfl

/-- The periodic event at its deadline; of two one-shot events at one deadline the one armed first; a re-arm whose sum is
2^64. -/
theorem witness_StepFiresEarliest :
    (Inv top ∧ top.phase = .run ∧ top.ctx = .top ∧ top.elapsed.toNat + (6 : Word64).toNat < 2 ^ 64 ∧
      ∃ e ∈ top.queue, e.deadline.toNat ≤ top.elapsed.toNat + (6 : Word64).toNat) ∧
    (Inv topTie ∧ ∃ e ∈ topTie.queue, e.deadline.toNat ≤ topTie.elapsed.toNat + (6 : Word64).toNat ∧ e.seq = 0) ∧
    (Inv topRearm ∧ (∃ e ∈ topRearm.queue, e.deadline.toNat ≤ topRearm.elapsed.toNat + (6 : Word64).toNat ∧
        ∃ p, e.period = some p ∧ e.deadline.toNat + p.toNat = 2 ^ 64) ∧
      (after topRearm (exec (.step 6) topRearm)).fault = some ⟨.timeOverflow, 8⟩) :=
  ⟨⟨inv_top, rfl, rfl, by decide, ⟨2, 10, some 15, 0xD, 1, false⟩, by decide +kernel⟩,
    ⟨inv_topTie, ⟨1, 10, none, 0xA, 0, false⟩, by decide +kernel⟩, inv_topRearm,
    ⟨⟨2, 10, some 0xFFFFFFFFFFFFFFF6, 0xD, 1, false⟩, by decide +kernel, by decide +kernel, _, rfl, by decide +kernel⟩,
    by decide +kernel⟩

/-- A due event is picked, and a periodic event is re-armed. -/
theorem witness_PickOrder : pickDue { top with elapsed := 10 } = some ⟨2, 10, some 15, 0xD, 1, false⟩ ∧
    (fireEvent ⟨2, 10, some 15, 0xD, 1, false⟩ top).toOption.isSome ∧
    isDue { top with elapsed := 10 } ⟨2, 10, some 15, 0xD, 1, false⟩ = true := by decide +kernel

/-- In a callback: an arming, an HRET that ends the pump, an HRET that fires again; and a STEP of each kind. -/
theorem witness_PumpTerminates : Inv inCallback ∧ inCallback.phase = .run ∧ inCallback.ctx = .callback ∧
    (after inCallback (exec (.schedAfter 0 1) inCallback)).phase = .run ∧
    (after inCallback (exec (.hret 0) inCallback)).phase = .run ∧
    (after inCallback (exec (.hret 0) inCallback)).ctx = .top ∧
    Inv top ∧ (after top (exec (.step 5) top)).ctx = .top ∧ (after top (exec (.step 6) top)).ctx = .callback ∧
    (after top (exec (.step 6) top)).phase = .run :=
  ⟨inv_inCallback, rfl, rfl, by decide +kernel, by decide +kernel, by decide +kernel, inv_top, by decide +kernel,
    by decide +kernel, by decide +kernel⟩

/-- In a callback, with one more event due and one deferred that would be. -/
def callbackDue : State := { inCallback with queue := [⟨2, 4, none, 0xB, 1, true⟩, ⟨1, 4, none, 0xA, 0, false⟩] }

theorem inv_callbackDue : Inv callbackDue :=
  inv_inCallback.withQueue _ _ _ rfl

theorem witness_DeferralRule : inCallback.ctx = .callback ∧
    (after inCallback (exec (.schedAfter 0 1) inCallback)).ctx = .callback ∧
    (⟨3, 4, none, 1, 2, true⟩ : Event) ∈ (after inCallback (exec (.schedAfter 0 1) inCallback)).queue ∧
    (⟨3, 4, none, 1, 2, true⟩ : Event) ∉ inCallback.queue ∧
    (after top (pumpContinue { top with elapsed := 10 })).trace = top.trace ++ [.invCallback 0xD 2] ∧ top.ctx = .top ∧
    (fireEvent ⟨2, 10, some 15, 0xD, 1, false⟩ top).toOption.isSome ∧
    (after callbackDue (exec (.hret 0) callbackDue)).cont = some (.callback 1) ∧
    ∃ e ∈ callbackDue.queue, e.defer = true ∧ e.deadline.toNat ≤ callbackDue.elapsed.toNat := by decide +kernel

theorem witness_IdsComeFromTheCounter :
    (⟨3, 4, none, 1, 2, true⟩ : Event) ∈ (after inCallback (exec (.schedAfter 0 1) inCallback)).queue ∧
    exec (.schedAfter 0 1) inCallback = .next (after inCallback (exec (.schedAfter 0 1) inCallback)) :=
  ⟨by decide +kernel, rfl⟩

/-- Index N - 1 and index N, through the command and through the selector range. -/
theorem witness_BankSelectBothWays : top.phase = .run ∧ (0 : Sel).toNat < top.params.numBanks ∧
    bankAt top 0 = some ⟨2, 1, 0⟩ ∧ (1 : Word16).toNat < (2 : Word16).toNat ∧ (2 : Word16).toNat ≤ (2 : Word16).toNat ∧
    top.params.bankOor = .modulo ∧ inCallback.params.bankOor = .fault ∧ inHandler.params.bankOor = .ignore ∧
    AccessOk top 0 0 0x7000 ∧ lookup top 0 .w 0x7000 = some eSel ∧ eSel.tkind = .banksel ∧
    (∀ o, lookup (run o .top none false) 0 .w 0x7000 = some eSel ∧ AccessOk (run o .top none false) 0 0 0x7000) :=
  ⟨rfl, by decide, rfl, by decide, by decide, rfl, rfl, rfl, accessOk_top _ _ (by decide) (by decide),
    by decide +kernel, rfl,
    fun o => ⟨by cases o <;> decide +kernel, by cases o <;> exact ⟨rfl, rfl, by decide, rfl, by decide⟩⟩⟩

theorem witness_BankActiveAndSelector : top.phase = .run ∧ (0 : Sel).toNat < top.params.numBanks ∧
    bankAt top (0 : Sel).toNat = some ⟨2, 1, 0⟩ ∧ Inv top ∧ top.params.numBanks ≤ (4 : Sel).toNat ∧
    bankAt top (3 : Sel).toNat = none :=
  ⟨rfl, by decide, rfl, inv_top, by decide, by decide +kernel⟩

/-- Back from buffer 1 to the written buffer 0: by the command with index 0, and under Modulo by a WRITE of the index N. -/
theorem witness_NextAccessSeesTheSwitch : Inv topSel1 ∧ AccessOk topSel1 0 0 0x9000 ∧
    bankAt topSel1 (0 : Sel).toNat = some ⟨2, 1, 1⟩ ∧ (0 : Word16).toNat < (2 : Word16).toNat ∧
    (AccessOk topSel1 0 0 0x7000 ∧ lookup topSel1 0 .w 0x7000 = some eSel ∧ eSel.tkind = .banksel ∧
      eSel.tid.toNat = (0 : Sel).toNat ∧ (2 : Word16) = (2 : Byte).setWidth 16 ∧
      (2 : Word16).toNat ≤ (2 : Word16).toNat ∧ topSel1.params.bankOor = .modulo ∧ (0 : Word16) = 2 % 2) ∧
    eBank.tkind = .bank ∧ eBank.tid.toNat = (0 : Sel).toNat ∧ lookup topSel1 0 .r 0x9000 = some eBank ∧
    topSel1.cell (0 : Sel).toNat 0 (rangeOffset 0x9000 eBank) = some 0x5A ∧ lookup topSel1 0 .w 0x9000 = some eBank :=
  ⟨inv_topSel1, ⟨rfl, rfl, by decide, rfl, by decide⟩, by decide +kernel, by decide,
    ⟨⟨rfl, rfl, by decide, rfl, by decide⟩, by decide +kernel, rfl, rfl, rfl, by decide, rfl, rfl⟩, rfl, rfl,
    by decide +kernel, by decide +kernel, by decide +kernel⟩

theorem witness_HretCompletes : inHandler.phase = .run ∧ inHandler.ctx ≠ .top ∧ inHandler.cont = some (.devRead 0) ∧
    (run .fault .handler (some (.devWrite 0 7)) false).cont = some (.devWrite 0 7) ∧
    inCallback.cont = some (.callback 7) ∧
    (∀ e ∈ inCallback.queue, e.defer = true ∨ inCallback.elapsed.toNat < e.deadline.toNat) ∧
    Inv callbackDue ∧ callbackDue.cont = some (.callback 7) ∧
    ∃ e ∈ callbackDue.queue, e.defer = false ∧ e.deadline.toNat ≤ callbackDue.elapsed.toNat :=
  ⟨rfl, by decide, rfl, rfl, rfl, by decide +kernel, inv_callbackDue, rfl, by decide +kernel⟩

theorem witness_OneInvocationAtATime : inHandler.ctx ≠ .top ∧
    exec .rcNow inHandler = .next { inHandler with responses := [4] } ∧
    exec (.step 0) inHandler = .next (afterFault .context inHandler) := ⟨by decide, rfl, rfl⟩

/-- An image saved with one buffer selected and restored into a block with the other, and a STEP that fires after it. -/
theorem witness_SaveRestoreRoundTrip : Inv top ∧ Inv topSel1 ∧ topSel1.params = top.params ∧ topSel1.phase = .run ∧
    topSel1.ctx = .top ∧
    (∀ b, (bankAt topSel1 b).map (fun k => (k.n, k.size)) = (bankAt top b).map (fun k => (k.n, k.size))) ∧
    top.phase = .run ∧ top.ctx = .top ∧ topSel1.geo = top.geo ∧ topSel1.ranges = top.ranges ∧
    topSel1.ports = top.ports ∧ topSel1.policy = top.policy ∧
    ∃ s', runCommands [.step 6, .hret 0, .read 0 0 0x9000] { top with draws := topSel1.draws } = .next s' :=
  ⟨inv_top, inv_topSel1, rfl, rfl, rfl, sameShape_topSel1, rfl, rfl, rfl, rfl, rfl, rfl, _, rfl⟩

theorem validImage_top : ValidImage top (takeSnapshot top) where
  slots := by
    intro b
    have h : ((takeSnapshot top).banks[b]?).join = bankAt top b := rfl
    rw [h, show bankAt top b = if b = 0 then some ⟨2, 1, 0⟩ else none from bankAt_run ..]
    refine ⟨Iff.rfl, fun k k' hk hk' => ?_⟩
    split_ifs at hk hk'
    cases hk
    cases hk'
    decide
  cells := by decide +kernel
  canonical := by rfl
  capacity := by decide +kernel
  ids := by decide +kernel
  periods := by
    intro e he p hp
    have he : e ∈ [(⟨1, 30, none, 0xA, 0, false⟩ : Event), ⟨2, 10, some 15, 0xD, 1, false⟩] := he
    simp only [List.mem_cons, List.not_mem_nil, or_false] at he
    rcases he with rfl | rfl <;> cases hp
    decide
  idsBelow := by decide +kernel
  seqs := by decide +kernel
  latches := fun _ _ => by decide +kernel

/-- The image of the state itself is valid; with next_seq at a seq in use it is not. Half groups: a header alone. -/
theorem witness_SaveAndRestoreSteps : ({ failed with inbox := [.save] } : State).inbox = .save :: [] ∧
    ({ conf with inbox := [.restore (takeSnapshot conf)] } : State).phase = .config ∧ inHandler.ctx ≠ .top ∧
    top.ctx = .top ∧ top.pumping = false ∧ ValidImage top (takeSnapshot top) ∧
    ¬ValidImage top { takeSnapshot top with nextSeq := 1 } ∧ top.halted = false ∧
    ([] : List Word64).length < operandCount 0x12 ∧
    step { top with inbox := [.header 0x12, .save, .operand 0] } =
      step { top with inbox := [.save, .header 0x12, .operand 0] } ∧
    step { top with inbox := [.operand 0, .header 0x12, .reset] } = step { top with inbox := [.reset] } :=
  ⟨rfl, rfl, by decide, rfl, rfl, validImage_top,
    fun h => absurd (h.seqs.2 ⟨2, 10, some 15, 0xD, 1, false⟩ (by decide +kernel)) (by decide), rfl, by decide, rfl, rfl⟩

theorem witness_ResetValues : ({ failed with inbox := [.reset, .save] } : State).inbox = .reset :: [.save] ∧
    failed.phase = .failed ∧
    step { failed with inbox := [.reset, .save] } = .next (serveReset [.save] failed) := ⟨rfl, by decide +kernel, rfl⟩

theorem witness_StepKeepsInv : Inv { top with inbox := [.header 0x12, .operand 6] } ∧
    step { top with inbox := [.header 0x12, .operand 6] } =
      .next (after top (step { top with inbox := [.header 0x12, .operand 6] })) :=
  ⟨inv_top.outside _ _ _ _ _ _ _ _, rfl⟩

theorem witness_ReachableInvariants : Reachable (bootState Params.default [.save]) :=
  ⟨Params.default, [.save], 0, default_legal, rfl⟩

/-- A whole group and half a group. -/
theorem witness_Progress : Inv { top with inbox := [.header 0x12, .operand 6] } ∧ top.halted = false ∧
    Framed [.header 0x12, .operand 6] ∧ Framed [.header 0x12] :=
  ⟨inv_top.outside _ _ _ _ _ _ _ _, rfl, by simp [Framed, operandCount]; decide,
    by simp [Framed]; decide⟩

theorem witness_WrittenBy : exec (.bankSelect 0 1) top = .next (after top (exec (.bankSelect 0 1) top)) ∧
    (after top (exec (.bankSelect 0 1) top)).banks ≠ top.banks ∧ bankAt conf 1 = none ∧
    bankAt (after conf (exec (.cfgBank 1 1 1) conf)) 1 ≠ none := ⟨rfl, by decide +kernel, rfl, by decide +kernel⟩

theorem witness_TablesFixedInRun : top.phase = .run ∧
    step { top with inbox := [.restore (takeSnapshot topSel1)] } =
      .next (after top (step { top with inbox := [.restore (takeSnapshot topSel1)] })) ∧
    (after top (step { top with inbox := [.restore (takeSnapshot topSel1)] })).phase = .run :=
  ⟨rfl, rfl, by decide +kernel⟩

theorem witness_OnlyStepAdvancesTime : exec (.step 5) top = .next (after top (exec (.step 5) top)) ∧
    exec .rcNow top = .next { top with responses := [4] } := ⟨rfl, rfl⟩

theorem witness_TraceNeverRead : exec (.read 0 0 0x4000) top = .next (after top (exec (.read 0 0 0x4000) top)) := rfl

end Sys2Proof.Machine.Tests
end

/-! ## Conditions over all addresses

`maskOk` and `overlaps` (20_memory.md R67, R68) run over the bits of an address; here they are tied to the addresses
themselves. -/

namespace Sys2Proof.Machine

theorem runBits_prod {σ τ : Type} {f : Nat → Bool → σ → σ} {g : Nat → Bool → τ → τ} {x : Nat → Bool} {n : Nat}
    {c : σ} {d : τ} :
    runBits (fun k b (p : σ × τ) => (f k b p.1, g k b p.2)) x n (c, d) = (runBits f x n c, runBits g x n d) := by
  induction n with
  | zero => rfl
  | succ n ih => simp only [runBits, ih]

/-- A run on transformed bits is a run whose step transforms the bit. -/
theorem runBits_map {σ : Type} {f : Nat → Bool → σ → σ} {g : Nat → Bool → Bool} {x : Nat → Bool} {n : Nat} {c : σ} :
    runBits (fun k b c => f k (g k b) c) x n c = runBits f (fun k => g k (x k)) n c := by
  induction n with
  | zero => rfl
  | succ n ih => simp only [runBits, ih]

/-- Comparing two numbers with one more bit each: the new bits decide, and where they are equal the bits below do. -/
theorem decide_le_add_bit {m n p : Nat} (hm : m < p) (hn : n < p) (b c : Bool) :
    decide (m + p * b.toNat ≤ n + p * c.toNat) = ((!b && c) || (b == c && decide (m ≤ n))) := by
  cases b <;> cases c <;> simp <;> omega

/-- The n low bits of x, compared with those of the bounds. -/
theorem runBits_boundNext (lo hi x : Word32) (n : Nat) :
    runBits (fun k b c => boundNext (lo.getLsbD k) (hi.getLsbD k) b c) x.getLsbD n (true, true) =
      (decide (lo.toNat % 2 ^ n ≤ x.toNat % 2 ^ n), decide (x.toNat % 2 ^ n ≤ hi.toNat % 2 ^ n)) := by
  induction n with
  | zero => simp [runBits, Nat.mod_one]
  | succ n ih =>
    have top_bit (y : Word32) : y.toNat % 2 ^ (n + 1) = y.toNat % 2 ^ n + 2 ^ n * (y.getLsbD n).toNat := by
      rw [Nat.mod_pow_succ, ← Nat.toNat_testBit, BitVec.testBit_toNat]
    have below (y : Word32) : y.toNat % 2 ^ n < 2 ^ n := Nat.mod_lt _ (Nat.two_pow_pos n)
    rw [runBits, ih, boundNext, top_bit, top_bit, top_bit, decide_le_add_bit (below lo) (below x),
      decide_le_add_bit (below x) (below hi), Bool.and_comm (x.getLsbD n),
      Bool.beq_comm (a := x.getLsbD n) (b := lo.getLsbD n)]

/-- The flag a mask check carries: some bit so far is 1 in x and 0 in the mask. -/
theorem runBits_outside (mask x : Word32) (n : Nat) :
    runBits (fun k b c => c || (b && !mask.getLsbD k)) x.getLsbD n false = true ↔
      ∃ k < n, x.getLsbD k = true ∧ mask.getLsbD k = false := by
  induction n with
  | zero => simp [runBits]
  | succ n ih =>
    simp only [runBits, Bool.or_eq_true, ih, Bool.and_eq_true, Bool.not_eq_true', Nat.lt_succ_iff_lt_or_eq]
    constructor
    · rintro (⟨k, hk, h⟩ | h)
      · exact ⟨k, .inl hk, h⟩
      · exact ⟨n, .inr rfl, h⟩
    · rintro ⟨k, hk | rfl, h⟩
      · exact .inl ⟨k, hk, h⟩
      · exact .inr h

/-- A choice of 32 bits is an address. -/
theorem exists_word_of_bits (x : Nat → Bool) : ∃ a : Word32, ∀ k < 32, a.getLsbD k = x k :=
  ⟨BitVec.ofFnLE fun i => x i, fun k hk => by rw [BitVec.getLsbD_ofFnLE, dif_pos hk]⟩

/-- A sweep over the 32 bits of an address, from one state, reaches what the addresses with no other than free bits
lead to. -/
theorem mem_sweep_word {σ : Type} [DecidableEq σ] {next : Nat → Bool → σ → σ} {free : Nat → Bool} {c t : σ} :
    t ∈ sweep next free 32 [c] ↔
      ∃ a : Word32, (∀ k, a.getLsbD k = true → free k = true) ∧ t = runBits next a.getLsbD 32 c := by
  rw [mem_sweep]
  constructor
  · rintro ⟨_, hc, x, hx, rfl⟩
    obtain rfl := List.mem_singleton.1 hc
    obtain ⟨a, ha⟩ := exists_word_of_bits x
    refine ⟨a, fun k hk => ?_, runBits_congr fun k hk => (ha k hk).symm⟩
    have h32 : k < 32 := BitVec.lt_of_getLsbD hk
    exact hx k (ha k h32 ▸ hk)
  · rintro ⟨a, ha, rfl⟩
    exact ⟨c, List.mem_singleton_self c, _, ha, rfl⟩

/-- The window of a range, decided on all 32 bits. -/
theorem runBits_window (lo hi x : Word32) :
    runBits (fun k b c => boundNext (lo.getLsbD k) (hi.getLsbD k) b c) x.getLsbD 32 (true, true) =
      (decide (lo.toNat ≤ x.toNat), decide (x.toNat ≤ hi.toNat)) := by
  rw [runBits_boundNext, Nat.mod_eq_of_lt lo.isLt, Nat.mod_eq_of_lt hi.isLt, Nat.mod_eq_of_lt x.isLt]

/-- An address is its own canonical address when each of its bits is in the mask (20_memory.md R62). -/
theorem and_mask_eq_self_iff (a mask : Word32) :
    a &&& mask = a ↔ ∀ k, a.getLsbD k = true → mask.getLsbD k = true := by
  constructor
  · intro h k hk
    rw [← h, BitVec.getLsbD_and, Bool.and_eq_true] at hk
    exact hk.2
  · intro h
    refine BitVec.eq_of_getLsbD_eq fun k _ => ?_
    rw [BitVec.getLsbD_and]
    cases hk : a.getLsbD k
    · rfl
    · rw [h k hk, Bool.and_self]

/-- The mask check says what R67 says of every address of the range. -/
theorem maskOk_iff (lo hi mask : Word32) :
    maskOk lo hi mask = true ↔ ∀ a : Word32, lo.toNat ≤ a.toNat → a.toNat ≤ hi.toNat → a &&& mask = a := by
  have run (a : Word32) := runBits_prod (x := a.getLsbD) (n := 32) (c := (true, true)) (d := false)
    (f := fun k b c => boundNext (lo.getLsbD k) (hi.getLsbD k) b c)
    (g := fun k b c => c || (b && !mask.getLsbD k))
  simp only [maskOk, Bool.not_eq_true', List.any_eq_false, mem_sweep_word, run]
  constructor
  · intro h a hlo hhi
    rw [and_mask_eq_self_iff]
    intro k hk
    by_contra hm
    refine h _ ⟨a, by simp, rfl⟩ ?_
    rw [runBits_window, (runBits_outside mask a 32).2 ⟨k, BitVec.lt_of_getLsbD hk, hk, by simpa using hm⟩]
    simp [hlo, hhi]
  · rintro h _ ⟨a, -, rfl⟩ hbad
    rw [runBits_window] at hbad
    simp only [Bool.and_eq_true, decide_eq_true_eq, runBits_outside] at hbad
    obtain ⟨⟨hlo, hhi⟩, k, -, hk, hm⟩ := hbad
    have := (and_mask_eq_self_iff a mask).1 (h a hlo hhi) k hk
    simp [hm] at this

/-- An address of a space of aw bits has no bit at or above aw. -/
theorem toNat_lt_two_pow_iff (a : Word32) (aw : Nat) :
    a.toNat < 2 ^ aw ↔ ∀ k, a.getLsbD k = true → decide (k < aw) = true := by
  constructor
  · intro h k hk
    rw [decide_eq_true_eq]
    by_contra hge
    have : a.toNat.testBit k = true := hk
    rw [Nat.testBit_lt_two_pow (lt_of_lt_of_le h (Nat.pow_le_pow_right (by omega) (by omega)))] at this
    cases this
  · intro h
    refine Nat.lt_pow_two_of_testBit _ fun k hk => ?_
    by_contra hb
    have : k < aw := by simpa using h k (by simpa [BitVec.testBit_toNat] using hb)
    omega

/-- The overlap check says what R68 says of the two decoded sets. -/
theorem overlaps_iff (aw : Nat) (e1 e2 : RangeEntry) :
    overlaps aw e1 e2 = true ↔ ∃ a : Word32, covers aw e1 a = true ∧ covers aw e2 a = true := by
  have masked (e : RangeEntry) (a : Word32) :
      runBits (fun k b c => boundNext (e.lo.getLsbD k) (e.hi.getLsbD k) (b && e.mask.getLsbD k) c) a.getLsbD 32
        (true, true) = (decide (e.lo.toNat ≤ (canonical a e).toNat), decide ((canonical a e).toNat ≤ e.hi.toNat)) := by
    rw [← runBits_window, runBits_map (g := fun k b => b && e.mask.getLsbD k)]
    exact runBits_congr fun k _ => (BitVec.getLsbD_and ..).symm
  simp only [overlaps, List.any_eq_true, mem_sweep_word, ← toNat_lt_two_pow_iff]
  constructor
  · rintro ⟨_, ⟨a, ha, rfl⟩, h⟩
    rw [runBits_prod, masked, masked] at h
    simp only [Bool.and_eq_true] at h
    obtain ⟨⟨⟨h1, h2⟩, h3⟩, h4⟩ := h
    exact ⟨a, by simp only [covers, ha, h1, h2]; rfl, by simp only [covers, ha, h3, h4]; rfl⟩
  · rintro ⟨a, h1, h2⟩
    simp only [covers, Bool.and_eq_true] at h1 h2
    refine ⟨_, ⟨a, of_decide_eq_true h1.1.1, rfl⟩, ?_⟩
    rw [runBits_prod, masked, masked, h1.1.2, h1.2, h2.1.2, h2.2]
    rfl

end Sys2Proof.Machine

/-! ## What a command can do

One inversion of `exec`: `Effect i s t` lists the ways command i can lead from s to t, and `exec_effect` says that there
are no others. What every command keeps or leaves alone is then proved effect by effect. -/

namespace Sys2Proof.Machine

/-- One bank select that goes on (45_bank.md R282). -/
def SelectStep (s t : State) : Prop :=
  ∃ b x, bankSelect b x s = .ok t

/-- Any number of bank selects, as a write dispatch makes them (42_portdispatch.md R191). -/
abbrev Selects : State → State → Prop :=
  Relation.ReflTransGen SelectStep

/-- A registered range entry leads to port unit u. -/
def NamedUnit (s : State) (u : Word16) : Prop :=
  ∃ sp d, ∃ e ∈ rangeTable s sp d, e.tkind = .ports ∧ e.tid = u

/-- The suspended command is a dispatch of port unit u. -/
def SuspendedUnit (s : State) (u : Word16) : Prop :=
  ∃ d o v k acc sp, s.cont = some (.portIter u d o v k acc sp)

/-- A continuation that awaits a handler's answer, its unit one of U. -/
def HandlerCont (U : Word16 → Prop) : Cont → Prop
  | .devRead _ => True
  | .devWrite _ _ => True
  | .portIter u _ _ _ _ _ _ => U u
  | .callback _ => False

/-- What a read access does from state s, in a READ or in the HRET that resumes one (41_access.md R171,
42_portdispatch.md R194). -/
inductive ReadEffect (U : Word16 → Prop) (s : State) : State → Prop
  | done (sp : Sel) (v : Byte) : ReadEffect U s (finishRead sp v s)
  | openBus (sp : Sel) : ReadEffect U s (finishOpenBus sp s)
  | invoke (hid : Word16) (o : Word32) (k : Cont) (hk : HandlerCont U k) :
    ReadEffect U s (invoke (.invRead hid o) .handler k s)
  | fault (c : FaultCode) : ReadEffect U s (faultState c (currentIndex s) s)

/-- What a write access that stores no cell does from state s, in a WRITE or in the HRET that resumes one
(41_access.md R173, 42_portdispatch.md R191). -/
inductive WriteEffect (U : Word16 → Prop) (s : State) : State → Prop
  | done (sp : Sel) (v : Byte) {s' : State} (hs : Selects s s') : WriteEffect U s (finishWrite sp v s')
  | invoke (hid : Word16) (o : Word32) (v : Byte) (k : Cont) {s' : State} (hs : Selects s s')
    (hk : HandlerCont U k) : WriteEffect U s (invoke (.invWrite hid o v) .handler k s')
  | fault (c : FaultCode) {s' : State} (hs : Selects s s') : WriteEffect U s (faultState c (currentIndex s') s')

/-- What `pump_continue()` does from state s (44_scheduler.md R251). -/
inductive PumpEffect (s : State) : State → Prop
  | ends (hd : pickDue s = none) : PumpEffect s { s with pumping := false }
  | oneShot {e : Event} (he : pickDue s = some e) (hp : e.period = none) :
    PumpEffect s (invoke (.invCallback e.tag e.id) .callback (.callback e.id)
      { afterPick s with queue := removeEvent e.id s.queue })
  | rearm {e : Event} {p : Word64} (he : pickDue s = some e) (hp : e.period = some p)
    (ht : e.deadline.toNat + p.toNat < 2 ^ 64) (hn : s.nextSeq ≠ BitVec.allOnes 64) :
    PumpEffect s (invoke (.invCallback e.tag e.id) .callback (.callback e.id)
      { afterPick s with
        nextSeq := s.nextSeq + 1
        queue := putEvent { e with deadline := e.deadline + p, seq := s.nextSeq, defer := s.ctx == .callback }
          (putEvent { e with deadline := e.deadline + p } s.queue) })
  | overflow {e : Event} {p : Word64} (he : pickDue s = some e) (hp : e.period = some p)
    (ht : 2 ^ 64 ≤ e.deadline.toNat + p.toNat) :
    PumpEffect s (faultState .timeOverflow (currentIndex (afterPick s)) (afterPick s))
  | seqSpent {e : Event} {p : Word64} (he : pickDue s = some e) (hp : e.period = some p)
    (ht : e.deadline.toNat + p.toNat < 2 ^ 64) (hn : s.nextSeq = BitVec.allOnes 64) :
    PumpEffect s (faultState .idExhausted (currentIndex (afterPick s))
      { afterPick s with queue := putEvent { e with deadline := e.deadline + p } s.queue })

/-- The registration commands (40_config.md). -/
def registrationOpcodes : List Opcode :=
  [.cfgGeometry, .cfgBank, .cfgPortunit, .regRange, .regPort, .start]

/-- The commands that give a response and do nothing else (43_raster.md R220 to R227, 45_bank.md R286). -/
def queryOpcodes : List Opcode :=
  [.rcNow, .rcScanline, .rcHpos, .rcHblank, .rcVblank, .rcCblank, .rcLinebit, .bankActive]

/-- What the command i can do in state s, and the state it leaves. -/
inductive Effect : Instr → State → State → Prop
  | fault {i s} (c : FaultCode) (hs : s.halted = false) : Effect i s (faultState c (currentIndex s) s)
  | configError {i s} (k : CfgKind) (info : List InfoItem) (hp : s.phase = .config)
    (hi : i.opcode ∈ registrationOpcodes) : Effect i s (configErrorState k info s)
  | cfgGeometry {s} (g : Geometry) (hp : s.phase = .config) (hg : g.Legal) :
    Effect (.cfgGeometry g.cpl g.lpf g.hbs g.hbe g.vbs g.vbe) s { s with geo := some g }
  | cfgBank {s} (b : Sel) (n : Word16) (size : Word32) (hp : s.phase = .config)
    (hb : b.toNat < s.params.numBanks) (hfree : bankAt s b.toNat = none) (hn : n ≠ 0) (hz : size ≠ 0)
    (hle : size.toNat ≤ 2 ^ s.params.awMax) : Effect (.cfgBank b n size) s (createBank b n size s)
  | cfgPortunit {s} (u : Sel) (p : Policy) (hp : s.phase = .config) :
    Effect (.cfgPortunit u p) s { s with policy := s.policy.set u.toNat p u.isLt }
  | regRange {s} (sp : Sel) (dm : DirSet) (ovr : Bool) (tk : TKind) (lo hi mask : Word32) (tid : Word16)
    (hp : s.phase = .config) (hsp : sp.toNat < s.params.numSpaces) (hle : lo.toNat ≤ hi.toNat)
    (hin : hi.toNat < 2 ^ spaceAw s sp) (hm : maskOk lo hi (newRange s sp ovr tk lo hi mask tid).mask = true)
    (ht : targetOk s tk tid dm (hi.toNat - lo.toNat + 1) = true) (hf : fullTable s sp dm = none)
    (hc : ovr = false → firstConflict s sp (newRange s sp ovr tk lo hi mask tid) dm = none) :
    Effect (.regRange sp dm ovr tk lo hi mask tid) s
      (dm.dirs.foldl (addRange sp (newRange s sp ovr tk lo hi mask tid)) s)
  | regPort {s} (u : Sel) (dm : DirSet) (tk : TKind) (bitmask : Word32) (tid : Word16) (hp : s.phase = .config)
    (ht : portTargetOk s tk tid (portDir dm) = true)
    (hl : (s.ports[u.toNat]'u.isLt).length ≠ s.params.maxPortEntries) :
    Effect (.regPort u dm tk bitmask tid) s (addPort u ⟨bitmask, portDir dm, tk, tid⟩ s)
  | start {s} (hp : s.phase = .config) (hg : s.geo.isSome) : Effect .start s { s with phase := .run }
  | answer {i s} (v : Word64) (hi : i.opcode ∈ queryOpcodes) : Effect i s (respond v s)
  | read {s t} (sp : Sel) (wid : BitVec 2) (a : Word32) (ha : AccessOk s sp wid a)
    (h : ReadEffect (NamedUnit s) s t) : Effect (.read sp wid a) s t
  | readUnmapped {s} (sp : Sel) (wid : BitVec 2) (a : Word32) (ha : AccessOk s sp wid a) :
    Effect (.read sp wid a) s (finishOpenBus sp (emit (.unmapped sp .r a) s))
  | write {s t} (sp : Sel) (wid : BitVec 2) (v : Byte) (a : Word32) (ha : AccessOk s sp wid a)
    (h : WriteEffect (NamedUnit s) s t) : Effect (.write sp wid v a) s t
  | writeUnmapped {s} (sp : Sel) (wid : BitVec 2) (v : Byte) (a : Word32) (ha : AccessOk s sp wid a) :
    Effect (.write sp wid v a) s (finishWrite sp v (emit (.unmapped sp .w a) s))
  | writeCell {s} (sp : Sel) (wid : BitVec 2) (v : Byte) (a : Word32) (ha : AccessOk s sp wid a) {b : Nat} {k : Bank}
    {off : Word32} (hk : bankAt s b = some k) (hoff : off.toNat < k.size.toNat) :
    Effect (.write sp wid v a) s (finishWrite sp v
      { s with mem := Memory.write s.params.bankInit s.mem (cellKey b k.sel off) v })
  | step {s t} (c : Word64) (hp : s.phase = .run) (hctx : s.ctx = .top)
    (hc : s.elapsed.toNat + c.toNat < 2 ^ 64) (h : PumpEffect (pumpStart { s with elapsed := s.elapsed + c }) t) :
    Effect (.step c) s t
  | schedule {i s} (delay : Word64) (period : Option Word64) (tag : Word32)
    (hi : i.opcode ∈ [.schedAfter, .schedPeriodic]) (hper : period ≠ some 0)
    (ht : s.elapsed.toNat + delay.toNat < 2 ^ 64) (hq : s.queue.length ≠ s.params.maxEvents) (hid : s.nextId ≠ 0)
    (hseq : s.nextSeq ≠ BitVec.allOnes 64) :
    Effect i s { s with
      nextId := s.nextId + 1
      nextSeq := s.nextSeq + 1
      queue := putEvent { id := s.nextId, deadline := s.elapsed + delay, period := period, tag := tag,
                          seq := s.nextSeq, defer := s.ctx == .callback } s.queue
      responses := s.responses ++ [s.nextId.setWidth 64] }
  | scheduleSpent {i s} (hs : s.halted = false) (hi : i.opcode ∈ [.schedAfter, .schedPeriodic]) (hid : s.nextId ≠ 0) :
    Effect i s (faultState .idExhausted (currentIndex s) { s with nextId := s.nextId + 1 })
  | cancel {s} (id : Word32) : Effect (.cancel id) s { s with queue := removeEvent id s.queue }
  | bankSelect {s t} (b : Sel) (x : Word16) (h : SelectStep s t) : Effect (.bankSelect b x) s t
  | hretRead {s t} (d : Byte) {k : Cont} (hp : s.phase = .run) (hk : s.cont = some k)
    (hh : HandlerCont (SuspendedUnit s) k) (h : ReadEffect (SuspendedUnit s) (endInvocation s) t) :
    Effect (.hret d) s t
  | hretWrite {s t} (d : Byte) {k : Cont} (hp : s.phase = .run) (hk : s.cont = some k)
    (hh : HandlerCont (SuspendedUnit s) k) (h : WriteEffect (SuspendedUnit s) (endInvocation s) t) :
    Effect (.hret d) s t
  | hretPump {s t} (d : Byte) {id : Word32} (hp : s.phase = .run) (hk : s.cont = some (.callback id))
    (h : PumpEffect (endInvocation s) t) : Effect (.hret d) s t

/-! ### Checks -/

theorem raiseFault_eq_next {c : FaultCode} {s t : State} :
    raiseFault c s = .next t ↔ faultState c (currentIndex s) s = t := by
  rw [raiseFault, Host.Outcome.next.injEq]

/-- The phase check only adds a fault. -/
theorem effect_of_inPhase {ps : List Phase} {i : Instr} {s t : State} {body : Result}
    (h : inPhase ps s body = .next t) (hbody : s.halted = false → s.phase ∈ ps → body = .next t → Effect i s t) :
    Effect i s t := by
  obtain ⟨-, hr⟩ | ⟨hs, -, hr⟩ | ⟨hs, hp, hr⟩ := inPhase_cases h
  · cases hr
  · exact raiseFault_eq_next.1 hr.symm ▸ .fault .phase hs
  · exact hbody hs hp hr.symm

theorem effect_of_raiseFault {c : FaultCode} {i : Instr} {s t : State} (hs : s.halted = false)
    (h : raiseFault c s = .next t) : Effect i s t :=
  raiseFault_eq_next.1 h ▸ .fault c hs

theorem effect_of_raiseConfig {k : CfgKind} {info : List InfoItem} {i : Instr} {s t : State} (hp : s.phase = .config)
    (hi : i.opcode ∈ registrationOpcodes) (h : raiseConfig k info s = .next t) : Effect i s t := by
  cases h
  exact .configError k info hp hi

/-! ### Registration -/

theorem execCfgGeometry_effect {cpl lpf hbs hbe vbs vbe : Word32} {s t : State}
    (h : execCfgGeometry cpl lpf hbs hbe vbs vbe s = .next t) : Effect (.cfgGeometry cpl lpf hbs hbe vbs vbe) s t := by
  refine effect_of_inPhase h fun _ hp h => ?_
  dsimp only at h
  split_ifs at h with hg
  · cases h
    exact .cfgGeometry ⟨cpl, lpf, hbs, hbe, vbs, vbe⟩ (List.mem_singleton.1 hp) hg
  · exact effect_of_raiseConfig (List.mem_singleton.1 hp) (by simp [Instr.opcode, registrationOpcodes]) h

theorem execCfgBank_effect {b : Sel} {n : Word16} {size : Word32} {s t : State}
    (h : execCfgBank b n size s = .next t) : Effect (.cfgBank b n size) s t := by
  refine effect_of_inPhase h fun _ hp h => ?_
  have hp := List.mem_singleton.1 hp
  have hi : (Instr.cfgBank b n size).opcode ∈ registrationOpcodes := by simp [Instr.opcode, registrationOpcodes]
  split_ifs at h with hb hbad
  · exact effect_of_raiseConfig hp hi h
  · exact effect_of_raiseConfig hp hi h
  · cases h
    simp only [not_or, Bool.not_eq_true, Option.isSome_eq_false_iff, Option.isNone_iff_eq_none, not_lt] at hbad
    obtain ⟨hfree, hn, hz, hle⟩ := hbad
    exact .cfgBank b n size hp (not_le.1 hb) hfree hn hz hle

theorem execCfgPortunit_effect {u : Sel} {p : Policy} {s t : State} (h : execCfgPortunit u p s = .next t) :
    Effect (.cfgPortunit u p) s t := by
  refine effect_of_inPhase h fun _ hp h => ?_
  have hp := List.mem_singleton.1 hp
  split_ifs at h
  · exact effect_of_raiseConfig hp (by simp [Instr.opcode, registrationOpcodes]) h
  · cases h
    exact .cfgPortunit u p hp

theorem execRegRange_effect {sp : Sel} {dm : DirSet} {ovr : Bool} {tk : TKind} {lo hi mask : Word32} {tid : Word16}
    {s t : State} (h : execRegRange sp dm ovr tk lo hi mask tid s = .next t) :
    Effect (.regRange sp dm ovr tk lo hi mask tid) s t := by
  refine effect_of_inPhase h fun _ hp h => ?_
  have hp := List.mem_singleton.1 hp
  have hop : (Instr.regRange sp dm ovr tk lo hi mask tid).opcode ∈ registrationOpcodes := by
    simp [Instr.opcode, registrationOpcodes]
  dsimp only at h
  generalize hc : (if ovr = true then none else firstConflict s sp _ dm) = conflict at h
  split_ifs at h with hsp hr hm ht
  · exact effect_of_raiseConfig hp hop h
  · exact effect_of_raiseConfig hp hop h
  · exact effect_of_raiseConfig hp hop h
  · exact effect_of_raiseConfig hp hop h
  · split at h
    · exact effect_of_raiseConfig hp hop h
    · rename_i hf
      split at h
      · exact effect_of_raiseConfig hp hop h
      · cases h
        simp only [not_or, not_lt, not_le] at hr
        exact .regRange sp dm ovr tk lo hi mask tid hp (not_le.1 hsp) hr.1 hr.2 (by simpa using hm)
          (by simpa using ht) hf fun ho => by simpa [ho] using hc

theorem execRegPort_effect {u : Sel} {dm : DirSet} {tk : TKind} {bitmask : Word32} {tid : Word16} {s t : State}
    (h : execRegPort u dm tk bitmask tid s = .next t) : Effect (.regPort u dm tk bitmask tid) s t := by
  refine effect_of_inPhase h fun _ hp h => ?_
  have hp := List.mem_singleton.1 hp
  have hi : (Instr.regPort u dm tk bitmask tid).opcode ∈ registrationOpcodes := by
    simp [Instr.opcode, registrationOpcodes]
  split_ifs at h with hu ht hl
  · exact effect_of_raiseConfig hp hi h
  · exact effect_of_raiseConfig hp hi h
  · exact effect_of_raiseConfig hp hi h
  · cases h
    exact .regPort u dm tk bitmask tid hp (by simpa using ht) hl

theorem execStart_effect {s t : State} (h : execStart s = .next t) : Effect .start s t := by
  refine effect_of_inPhase h fun _ hp h => ?_
  have hp := List.mem_singleton.1 hp
  split_ifs at h with hg
  · exact effect_of_raiseConfig hp (by simp [Instr.opcode, registrationOpcodes]) h
  · cases h
    exact .start hp (by simpa [Option.isSome_iff_ne_none] using hg)

/-! ### Queries -/

theorem rasterQuery_effect {i : Instr} {f : Geometry → Word64} {s t : State} (hi : i.opcode ∈ queryOpcodes)
    (h : rasterQuery s f = .next t) : Effect i s t := by
  refine effect_of_inPhase h fun _ _ h => ?_
  split at h
  · cases h
  · cases h
    exact .answer _ hi

theorem execRcNow_effect {s t : State} (h : execRcNow s = .next t) : Effect .rcNow s t := by
  refine effect_of_inPhase h fun _ _ h => ?_
  cases h
  exact .answer _ (by simp [Instr.opcode, queryOpcodes])

theorem execBankActive_effect {b : Sel} {s t : State} (h : execBankActive b s = .next t) :
    Effect (.bankActive b) s t := by
  refine effect_of_inPhase h fun hs _ h => ?_
  split at h
  · exact effect_of_raiseFault hs h
  · cases h
    exact .answer _ (by simp [Instr.opcode, queryOpcodes])

/-! ### Bank selects and port dispatch -/

theorem execBankSelect_effect {b : Sel} {x : Word16} {s t : State} (h : execBankSelect b x s = .next t) :
    Effect (.bankSelect b x) s t := by
  refine effect_of_inPhase h fun hs _ h => ?_
  split at h
  · exact effect_of_raiseFault hs h
  · split at h
    · rename_i s' hsel
      cases h
      exact .bankSelect b x ⟨_, _, hsel⟩
    · rename_i r hsel
      obtain ⟨-, rfl⟩ | ⟨-, -, -, -, rfl⟩ := bankSelect_error hsel
      · cases h
      · exact effect_of_raiseFault hs h

/-- A bank select that ends a write access ends it with F_BANK_INDEX. -/
theorem writeEffect_of_bankSelect_error {U : Word16 → Prop} {b : Nat} {x : Word16} {s t : State} {r : Result}
    (hsel : bankSelect b x s = .error r) (h : r = .next t) : WriteEffect U s t := by
  obtain ⟨-, rfl⟩ | ⟨-, -, -, -, rfl⟩ := bankSelect_error hsel
  · cases h
  · exact raiseFault_eq_next.1 h ▸ .fault _ .refl

/-- What follows a bank select in a write access. -/
theorem WriteEffect.after_select {U : Word16 → Prop} {s s' t : State} (hs : SelectStep s s')
    (h : WriteEffect U s' t) : WriteEffect U s t := by
  cases h with
  | done sp v h => exact .done sp v (.head hs h)
  | invoke hid o v k h hk => exact .invoke hid o v k (.head hs h) hk
  | fault c h => exact .fault c (.head hs h)

theorem dispatchWrite_effect {U : Word16 → Prop} {u : Word16} {o : Word32} {v : Byte} {sp : Sel} {k : Nat}
    {es : List PortEntry} {s t : State} (hu : U u) (h : dispatchWrite u o v sp k es s = .next t) :
    WriteEffect U s t := by
  induction es generalizing k s with
  | nil =>
    cases h
    exact .done sp v .refl
  | cons e es ih =>
    rw [dispatchWrite] at h
    split_ifs at h
    · split at h
      · cases h
        exact .invoke _ o v _ .refl hu
      · split at h
        · rename_i hsel
          exact (ih h).after_select ⟨_, _, hsel⟩
        · rename_i hsel
          exact writeEffect_of_bankSelect_error hsel h
      · cases h
      · cases h
    · exact ih h

theorem portWrite_effect {U : Word16 → Prop} {u : Word16} {o : Word32} {v : Byte} {sp : Sel} {k : Nat} {s t : State}
    (hu : U u) (h : portWrite u o v sp k s = .next t) : WriteEffect U s t := by
  unfold portWrite at h
  split at h
  · cases h
  · exact dispatchWrite_effect hu h

theorem portRead_effect {U : Word16 → Prop} {u : Word16} {o : Word32} {sp : Sel} {acc : Option Byte} {k : Nat}
    {s t : State} (hu : U u) (h : portRead u o sp acc k s = .next t) : ReadEffect U s t := by
  unfold portRead at h
  split at h
  · cases h
  · obtain ⟨-, ⟨v, -, hr⟩ | ⟨-, hr⟩⟩ | ⟨e, -, j, -, -, hr⟩ | ⟨e, -, -, -, hr⟩ := dispatchRead_cases h <;> cases hr
    · exact .done sp v
    · exact .openBus sp
    · exact .invoke _ o _ hu

/-! ### READ and WRITE -/

/-- The access checks only add faults (41_access.md R170). -/
theorem effect_of_accessChecks {sp : Sel} {wid : BitVec 2} {a : Word32} {i : Instr} {s t : State} {body : Result}
    (h : accessChecks sp wid a s body = .next t) (hbody : AccessOk s sp wid a → body = .next t → Effect i s t) :
    Effect i s t := by
  refine effect_of_inPhase h fun hs hp h => ?_
  split_ifs at h with hc hsp hw ha
  · exact effect_of_raiseFault hs h
  · exact effect_of_raiseFault hs h
  · exact effect_of_raiseFault hs h
  · exact effect_of_raiseFault hs h
  · exact hbody ⟨List.mem_singleton.1 hp, not_not.1 hc, not_le.1 hsp, not_not.1 hw, not_le.1 ha⟩ h

theorem readTarget_effect {sp : Sel} {a : Word32} {e : RangeEntry} {s t : State}
    (he : lookup s sp .r a = some e) (h : readTarget sp a e s = .next t) : ReadEffect (NamedUnit s) s t := by
  unfold readTarget at h
  split at h
  · cases h
    exact .invoke _ _ _ trivial
  · split at h
    · cases h
      exact .done _ _
    · rename_i hr
      obtain ⟨-, rfl⟩ | ⟨-, -, -, rfl⟩ | ⟨-, -, -, -, rfl⟩ := bufRead_error hr
      · cases h
      · cases h
      · exact raiseFault_eq_next.1 h ▸ .fault _
  · rename_i ht
    exact portRead_effect ⟨sp, .r, e, (lookup_some he).1, ht, rfl⟩ h
  · cases h

theorem execRead_effect {sp : Sel} {wid : BitVec 2} {a : Word32} {s t : State} (h : execRead sp wid a s = .next t) :
    Effect (.read sp wid a) s t := by
  refine effect_of_accessChecks h fun ha h => ?_
  split at h
  · cases h
    exact .readUnmapped sp wid a ha
  · rename_i e he
    exact .read sp wid a ha (readTarget_effect he h)

theorem execWrite_effect {sp : Sel} {wid : BitVec 2} {v : Byte} {a : Word32} {s t : State}
    (h : execWrite sp wid v a s = .next t) : Effect (.write sp wid v a) s t := by
  refine effect_of_accessChecks h fun ha h => ?_
  split at h
  · cases h
    exact .writeUnmapped sp wid v a ha
  rename_i e he
  unfold writeTarget at h
  split at h
  · cases h
    exact .write sp wid v a ha (.invoke _ _ _ _ .refl trivial)
  · split at h
    · rename_i hw
      obtain ⟨k, hk, hoff, rfl⟩ := bufWrite_ok hw
      cases h
      exact .writeCell sp wid v a ha hk hoff
    · rename_i hw
      obtain ⟨-, rfl⟩ | ⟨-, -, -, rfl⟩ := bufWrite_error hw <;> cases h
  · rename_i ht
    exact .write sp wid v a ha (portWrite_effect ⟨sp, .w, e, (lookup_some he).1, ht, rfl⟩ h)
  · split at h
    · rename_i hsel
      cases h
      exact .write sp wid v a ha (.done sp v (.single ⟨_, _, hsel⟩))
    · rename_i hsel
      exact .write sp wid v a ha (writeEffect_of_bankSelect_error hsel h)

/-! ### The scheduler -/

theorem pumpContinue_effect {s t : State} (h : pumpContinue s = .next t) : PumpEffect s t := by
  obtain ⟨hd, hr⟩ | ⟨e, he, ⟨s', hf, hr⟩ | hf⟩ := pumpContinue_cases h
  · cases hr
    exact .ends hd
  · cases hr
    obtain ⟨hp, hs⟩ | ⟨p, -, -, hs⟩ | ⟨p, -, -, -, hs⟩ | ⟨p, hp, ht, hn, hs⟩ := fireEvent_cases hf <;> cases hs
    · rw [afterPick_queue]
      exact .oneShot he hp
    · rw [afterPick_queue, afterPick_nextSeq, afterPick_ctx]
      exact .rearm he hp ht (by simpa using hn)
  · obtain ⟨-, hs⟩ | ⟨p, hp, ht, hs⟩ | ⟨p, hp, ht, hn, hs⟩ | ⟨p, -, -, -, hs⟩ := fireEvent_cases hf <;> cases hs
    · exact .overflow he hp ht
    · rw [afterPick_queue]
      exact .seqSpent he hp ht (by simpa using hn)

theorem execStep_effect {c : Word64} {s t : State} (h : execStep c s = .next t) : Effect (.step c) s t := by
  refine effect_of_inPhase h fun hs hp h => ?_
  split_ifs at h with hctx hc
  · exact effect_of_raiseFault hs h
  · exact effect_of_raiseFault hs h
  · exact .step c (List.mem_singleton.1 hp) (not_not.1 hctx) (not_le.1 hc) (pumpContinue_effect h)

theorem schedule_effect {i : Instr} {delay : Word64} {period : Option Word64} {tag : Word32} {s t : State}
    (hs : s.halted = false) (hi : i.opcode ∈ [.schedAfter, .schedPeriodic]) (hper : period ≠ some 0)
    (h : schedule delay period tag s = .next t) : Effect i s t := by
  obtain ⟨-, hr⟩ | ⟨ht, ⟨-, hr⟩ | ⟨hq, ⟨-, hr⟩ | ⟨hid, -, hr⟩ | ⟨hid, hseq, hr⟩⟩⟩ := schedule_cases h
  · exact effect_of_raiseFault hs hr.symm
  · exact effect_of_raiseFault hs hr.symm
  · exact effect_of_raiseFault hs hr.symm
  · exact raiseFault_eq_next.1 hr.symm ▸ .scheduleSpent hs hi hid
  · cases hr
    exact .schedule delay period tag hi hper ht hq hid hseq

theorem execSchedAfter_effect {delay : Word64} {tag : Word32} {s t : State}
    (h : execSchedAfter delay tag s = .next t) : Effect (.schedAfter delay tag) s t :=
  effect_of_inPhase h fun hs _ h => schedule_effect hs (by simp [Instr.opcode]) (by simp) h

theorem execSchedPeriodic_effect {period : Word64} {tag : Word32} {s t : State}
    (h : execSchedPeriodic period tag s = .next t) : Effect (.schedPeriodic period tag) s t := by
  refine effect_of_inPhase h fun hs _ h => ?_
  split_ifs at h with hp
  · exact effect_of_raiseFault hs h
  · exact schedule_effect hs (by simp [Instr.opcode]) (by simpa using hp) h

theorem execCancel_effect {id : Word32} {s t : State} (h : execCancel id s = .next t) : Effect (.cancel id) s t := by
  refine effect_of_inPhase h fun _ _ h => ?_
  cases h
  exact .cancel id

/-! ### HRET -/

theorem execHret_effect {d : Byte} {s t : State} (h : execHret d s = .next t) : Effect (.hret d) s t := by
  refine effect_of_inPhase h fun hs hp h => ?_
  have hp := List.mem_singleton.1 hp
  split_ifs at h with hctx
  · exact effect_of_raiseFault hs h
  split at h
  · cases h
  rename_i k hk
  unfold resume at h
  split at h
  · cases h
    exact .hretRead d hp hk trivial (.done _ _)
  · cases h
    exact .hretWrite d hp hk trivial (.done _ _ .refl)
  · have hu : SuspendedUnit s _ := ⟨_, _, _, _, _, _, hk⟩
    exact .hretWrite d hp hk hu (portWrite_effect hu h)
  · have hu : SuspendedUnit s _ := ⟨_, _, _, _, _, _, hk⟩
    exact .hretRead d hp hk hu (portRead_effect hu h)
  · exact .hretPump d hp hk (pumpContinue_effect h)

/-- A command that leads to a next state has one of its effects. -/
theorem exec_effect {i : Instr} {s t : State} (h : exec i s = .next t) : Effect i s t := by
  cases i with
  | cfgGeometry => exact execCfgGeometry_effect h
  | cfgBank => exact execCfgBank_effect h
  | cfgPortunit => exact execCfgPortunit_effect h
  | regRange => exact execRegRange_effect h
  | regPort => exact execRegPort_effect h
  | start => exact execStart_effect h
  | read => exact execRead_effect h
  | write => exact execWrite_effect h
  | step => exact execStep_effect h
  | rcNow => exact execRcNow_effect h
  | rcScanline => exact rasterQuery_effect (by simp [Instr.opcode, queryOpcodes]) h
  | rcHpos => exact rasterQuery_effect (by simp [Instr.opcode, queryOpcodes]) h
  | rcHblank => exact rasterQuery_effect (by simp [Instr.opcode, queryOpcodes]) h
  | rcVblank => exact rasterQuery_effect (by simp [Instr.opcode, queryOpcodes]) h
  | rcCblank => exact rasterQuery_effect (by simp [Instr.opcode, queryOpcodes]) h
  | rcLinebit => exact rasterQuery_effect (by simp [Instr.opcode, queryOpcodes]) h
  | schedAfter => exact execSchedAfter_effect h
  | schedPeriodic => exact execSchedPeriodic_effect h
  | cancel => exact execCancel_effect h
  | bankSelect => exact execBankSelect_effect h
  | bankActive => exact execBankActive_effect h
  | hret => exact execHret_effect h

end Sys2Proof.Machine

/-! ## The invariant in parts

`Inv` in four parts, each about its own fields, so that a command's proof is about the part it changes. -/

namespace Sys2Proof.Machine

/-- The part of the invariant about the range tables (R44 items 2 and 3). -/
structure RangesLegal (s : State) : Prop where
  legal : ∀ sp d, ∀ e ∈ rangeTable s sp d, RangeLegal s sp d e
  overrides : ∀ sp d, (rangeTable s sp d).Pairwise fun e e' =>
    ∀ a : Word32, covers (spaceAw s sp) e a = true → covers (spaceAw s sp) e' a = true → e'.ovr = true
  cap : ∀ sp d, (rangeTable s sp d).length ≤ s.params.maxRanges
  unused : ∀ sp d, s.params.numSpaces ≤ sp.toNat → rangeTable s sp d = []

/-- The part about the port lists (R27, R28). -/
def PortsLegal (s : State) : Prop :=
  ∀ (u : Nat) es, portList s u = some es → (∀ e ∈ es, PortLegal s e) ∧ es.length ≤ s.params.maxPortEntries

/-- The part about the bank slots and their cells (R44 item 4, R32). -/
structure SlotsLegal (s : State) : Prop where
  banks : ∀ (b : Nat) k, bankAt s b = some k → BankLegal s b k
  mem : Memory.wf s.params.bankInit s.mem = true
  memCells : ∀ c ∈ s.mem, cellExists s.banks c.1 = true

/-- The part about the context and the continuation (R44 item 7). -/
structure InvocationLegal (s : State) : Prop where
  ctxTop : s.ctx = .top ↔ s.cont = none
  ctxCallback : s.ctx = .callback ↔ ∃ id, s.cont = some (.callback id)
  contLegal : ∀ k, s.cont = some k → ContLegal s k

/-- The part about what each phase allows (R44 item 1, R39, R42). -/
structure PhaseLegal (s : State) : Prop where
  geoSet : s.phase = .run → s.geo.isSome
  ctxPhase : s.ctx ≠ .top → s.phase = .run ∨ s.phase = .faulted
  pump : s.phase ≠ .faulted → (s.pumping = true ↔ s.ctx = .callback)
  configTime : s.phase = .config → s.elapsed = 0
  cfgError : s.cfgError.isSome ↔ s.phase = .failed
  fault : s.fault.isSome ↔ s.phase = .faulted

theorem Inv.of_parts {s : State} (params : s.params.Legal) (geoLegal : ∀ g, s.geo = some g → g.Legal)
    (ranges : RangesLegal s) (ports : PortsLegal s) (slots : SlotsLegal s)
    (queue : queueValid s.params.maxEvents s.queue s.nextId s.nextSeq = true) (invocation : InvocationLegal s)
    (phase : PhaseLegal s) : Inv s where
  params := params
  geoLegal := geoLegal
  geoSet := phase.geoSet
  ranges := ranges.legal
  overrides := ranges.overrides
  rangeCap := ranges.cap
  rangeUnused := ranges.unused
  ports := ports
  banks := slots.banks
  queue := queue
  mem := slots.mem
  memCells := slots.memCells
  ctxTop := invocation.ctxTop
  ctxCallback := invocation.ctxCallback
  contLegal := invocation.contLegal
  ctxPhase := phase.ctxPhase
  pump := phase.pump
  configTime := phase.configTime
  cfgError := phase.cfgError
  fault := phase.fault

theorem Inv.rangesLegal {s : State} (h : Inv s) : RangesLegal s :=
  ⟨h.ranges, h.overrides, h.rangeCap, h.rangeUnused⟩

theorem Inv.slotsLegal {s : State} (h : Inv s) : SlotsLegal s :=
  ⟨h.banks, h.mem, h.memCells⟩

/-! ### Tables and slots -/

/-- Every configured slot stays configured, with its N and S. -/
def BanksKept (s t : State) : Prop :=
  ∀ b k, bankAt s b = some k → ∃ k', bankAt t b = some k' ∧ k'.n = k.n ∧ k'.size = k.size

theorem SameShape.banksKept {s t : State} (h : SameShape s t) : BanksKept s t :=
  fun _ _ hk => h.some hk

theorem BanksKept.of_eq {s t : State} (h : t.banks = s.banks) : BanksKept s t :=
  fun _ k hk => ⟨k, by rw [bankAt, h]; exact hk, rfl, rfl⟩

theorem BanksKept.isSome {s t : State} (h : BanksKept s t) {b : Nat} (hb : (bankAt s b).isSome) :
    (bankAt t b).isSome := by
  obtain ⟨k, hk⟩ := Option.isSome_iff_exists.1 hb
  obtain ⟨k', hk', -⟩ := h b k hk
  simp [hk']

theorem BanksKept.targetLegal {s t : State} (hb : BanksKept s t) (hp : t.params = s.params) {d : Dir} {tk : TKind}
    {tid : Word16} {size : Nat} (h : TargetLegal s d tk tid size) : TargetLegal t d tk tid size := by
  cases tk with
  | device => trivial
  | bank =>
    obtain ⟨k, hk, hs⟩ := h
    obtain ⟨k', hk', -, hs'⟩ := hb _ k hk
    exact ⟨k', hk', hs' ▸ hs⟩
  | ports => simpa only [TargetLegal, hp] using h
  | banksel => exact ⟨h.1, hb.isSome h.2⟩

theorem spaceAw_congr {s t : State} (hp : t.params = s.params) (sp : Sel) : spaceAw t sp = spaceAw s sp := by
  simp only [spaceAw, hp]

theorem BanksKept.rangeLegal {s t : State} (hb : BanksKept s t) (hp : t.params = s.params) {sp : Sel} {d : Dir}
    {e : RangeEntry} (h : RangeLegal s sp d e) : RangeLegal t sp d e :=
  have haw := spaceAw_congr hp sp
  ⟨h.ordered, haw ▸ h.inSpace, haw ▸ h.maskInSpace, h.fold, hb.targetLegal hp h.target⟩

theorem BanksKept.portLegal {s t : State} (hb : BanksKept s t) {e : PortEntry} (h : PortLegal s e) : PortLegal t e :=
  h.imp_right fun ⟨htk, hd, hs⟩ => ⟨htk, hd, hb.isSome hs⟩

/-- A key names a cell of the slot it belongs to (10_state.md R32). -/
theorem cellExists_iff {s : State} {key : Nat} :
    cellExists s.banks key = true ↔
      ∃ k, bankAt s (keySlot key) = some k ∧ key / 2 ^ 32 % 2 ^ 16 < k.n.toNat ∧ key % 2 ^ 32 < k.size.toNat := by
  unfold cellExists
  change (match bankAt s (keySlot key) with | none => _ | some k => _) = true ↔ _
  cases bankAt s (keySlot key) <;> simp

theorem BanksKept.cellExists {s t : State} (hb : BanksKept s t) {key : Nat} (h : cellExists s.banks key = true) :
    cellExists t.banks key = true := by
  obtain ⟨k, hk, hi, hoff⟩ := cellExists_iff.1 h
  obtain ⟨k', hk', hn, hz⟩ := hb _ k hk
  exact cellExists_iff.2 ⟨k', hk', hn ▸ hi, hz ▸ hoff⟩

theorem cellExists_cellKey {s : State} {b : Nat} {k : Bank} {i : Word16} {off : Word32} (hk : bankAt s b = some k)
    (hi : i.toNat < k.n.toNat) (hoff : off.toNat < k.size.toNat) : cellExists s.banks (cellKey b i off) = true := by
  rw [cellExists_iff, keySlot_cellKey]
  have := i.isLt
  have := off.isLt
  refine ⟨k, hk, ?_, ?_⟩ <;> rw [cellKey] <;> omega

theorem RangesLegal.transfer {s t : State} (h : RangesLegal s) (hp : t.params = s.params)
    (hr : t.ranges = s.ranges) (hb : BanksKept s t) : RangesLegal t := by
  have htable (sp : Sel) (d : Dir) : rangeTable t sp d = rangeTable s sp d := by simp only [rangeTable, hr]
  have haw (sp : Sel) := spaceAw_congr hp sp
  constructor
  case legal => exact fun sp d e he => hb.rangeLegal hp (h.legal sp d e (htable sp d ▸ he))
  case overrides => exact fun sp d => by simpa only [htable, haw] using h.overrides sp d
  case cap => exact fun sp d => by simpa only [htable, hp] using h.cap sp d
  case unused => exact fun sp d hsp => by simpa only [htable] using h.unused sp d (hp ▸ hsp)

theorem PortsLegal.transfer {s t : State} (h : PortsLegal s) (hp : t.params = s.params) (hports : t.ports = s.ports)
    (hb : BanksKept s t) : PortsLegal t := by
  intro u es hes
  obtain ⟨hl, hc⟩ := h u es (by rw [portList, ← hports]; exact hes)
  exact ⟨fun e he => hb.portLegal (hl e he), hp ▸ hc⟩

theorem BankLegal.congr {s t : State} {b : Nat} {k : Bank} (h : BankLegal s b k) (hp : t.params = s.params) :
    BankLegal t b k :=
  ⟨hp ▸ h.exists_, h.buffers, h.size_pos, hp ▸ h.size_le, h.selected⟩

theorem SlotsLegal.congr {s t : State} (h : SlotsLegal s) (hp : t.params = s.params) (hbanks : t.banks = s.banks)
    (hmem : t.mem = s.mem) : SlotsLegal t where
  banks b k hk := (h.banks b k (by rw [bankAt, ← hbanks]; exact hk)).congr hp
  mem := by rw [hp, hmem]; exact h.mem
  memCells := by rw [hmem, hbanks]; exact h.memCells

theorem InvocationLegal.congr {s t : State} (h : InvocationLegal s) (hp : t.params = s.params) (hctx : t.ctx = s.ctx)
    (hcont : t.cont = s.cont) : InvocationLegal t where
  ctxTop := by rw [hctx, hcont]; exact h.ctxTop
  ctxCallback := by rw [hctx, hcont]; exact h.ctxCallback
  contLegal k hk := by
    have := h.contLegal k (hcont ▸ hk)
    cases k with
    | portIter u => simpa only [ContLegal, hp] using this
    | _ => trivial

theorem Inv.invocationLegal {s : State} (h : Inv s) : InvocationLegal s :=
  ⟨h.ctxTop, h.ctxCallback, h.contLegal⟩

theorem Inv.withGeo {s : State} (h : Inv s) {g : Geometry} (hg : g.Legal) : Inv { s with geo := some g } := by
  have hb : BanksKept s { s with geo := some g } := .of_eq rfl
  refine .of_parts h.params ?_ (h.rangesLegal.transfer rfl rfl hb) (PortsLegal.transfer h.ports rfl rfl hb)
    (h.slotsLegal.congr rfl rfl rfl) h.queue (h.invocationLegal.congr rfl rfl rfl)
    ⟨fun _ => rfl, h.ctxPhase, h.pump, h.configTime, h.cfgError, h.fault⟩
  rintro g' ⟨⟩
  exact hg

theorem Inv.withRanges {s : State} (h : Inv s) (ranges : Vector SpaceTables 16)
    (hr : RangesLegal { s with ranges := ranges }) : Inv { s with ranges := ranges } :=
  .of_parts h.params h.geoLegal hr (PortsLegal.transfer h.ports rfl rfl (.of_eq rfl))
    (h.slotsLegal.congr rfl rfl rfl) h.queue (h.invocationLegal.congr rfl rfl rfl)
    ⟨h.geoSet, h.ctxPhase, h.pump, h.configTime, h.cfgError, h.fault⟩

theorem Inv.withPorts {s : State} (h : Inv s) (ports : Vector (List PortEntry) 16)
    (hp : PortsLegal { s with ports := ports }) : Inv { s with ports := ports } :=
  .of_parts h.params h.geoLegal (h.rangesLegal.transfer rfl rfl (.of_eq rfl)) hp
    (h.slotsLegal.congr rfl rfl rfl) h.queue (h.invocationLegal.congr rfl rfl rfl)
    ⟨h.geoSet, h.ctxPhase, h.pump, h.configTime, h.cfgError, h.fault⟩

/-- New slots and cells may replace those of a good state, where no configured slot loses its shape. -/
theorem Inv.withSlots {s : State} (h : Inv s) (banks : Vector (Option Bank) 16) (mem : Memory)
    (hkept : BanksKept s { s with banks := banks, mem := mem })
    (hbanks : ∀ b k, bankAt { s with banks := banks, mem := mem } b = some k → BankLegal s b k)
    (hmem : Memory.wf s.params.bankInit mem = true) (hcells : ∀ c ∈ mem, cellExists banks c.1 = true) :
    Inv { s with banks := banks, mem := mem } :=
  .of_parts h.params h.geoLegal (h.rangesLegal.transfer rfl rfl hkept) (PortsLegal.transfer h.ports rfl rfl hkept)
    ⟨fun b k hk => (hbanks b k hk).congr rfl, hmem, hcells⟩ h.queue (h.invocationLegal.congr rfl rfl rfl)
    ⟨h.geoSet, h.ctxPhase, h.pump, h.configTime, h.cfgError, h.fault⟩

/-- New control state may replace that of a good state. -/
theorem Inv.withControl {s : State} (h : Inv s) (elapsed : Word64) (cont : Option Cont) (pumping : Bool)
    (cfgError : Option CfgError) (phase : Phase) (ctx : Ctx) (fault : Option FaultRecord)
    (hi : InvocationLegal { s with cont := cont, ctx := ctx })
    (hp : PhaseLegal { s with
      elapsed := elapsed, pumping := pumping, cfgError := cfgError, phase := phase, ctx := ctx, fault := fault }) :
    Inv { s with
      elapsed := elapsed, cont := cont, pumping := pumping, cfgError := cfgError, phase := phase, ctx := ctx
      fault := fault } :=
  .of_parts h.params h.geoLegal (h.rangesLegal.transfer rfl rfl (.of_eq rfl))
    (PortsLegal.transfer h.ports rfl rfl (.of_eq rfl)) (h.slotsLegal.congr rfl rfl rfl) h.queue
    (hi.congr rfl rfl rfl) ⟨hp.geoSet, hp.ctxPhase, hp.pump, hp.configTime, hp.cfgError, hp.fault⟩

/-! ### Reset -/

/-- The reset state is good under every legal choice of the parameters (70_reset_and_hazards.md R360). -/
theorem resetWith_inv {p : Params} (hp : p.Legal) : Inv (State.resetWith p) := by
  have hbank (b : Nat) : bankAt (State.resetWith p) b = none := by
    simp only [bankAt, State.resetWith, Vector.getElem?_replicate]
    split_ifs <;> rfl
  have hport (u : Nat) (es : List PortEntry) (h : portList (State.resetWith p) u = some es) : es = [] := by
    simp only [portList, State.resetWith, Vector.getElem?_replicate] at h
    split_ifs at h
    cases h
    rfl
  have htable (sp : Sel) (d : Dir) : rangeTable (State.resetWith p) sp d = [] := by
    cases d <;> simp [rangeTable, State.resetWith]
  refine .of_parts hp nofun ?_ ?_ ?_ rfl ?_ ?_
  · constructor <;> simp [htable]
  · intro u es h
    obtain rfl := hport u es h
    simp
  · exact ⟨by simp [hbank], resetWith_mem_wf p, nofun⟩
  · constructor <;> simp [State.resetWith]
  · constructor <;> simp [State.resetWith]

theorem default_params_legal : Params.default.Legal := by decide

/-- Settles O53: the reset state is the one of R7's default parameters, which are legal. -/
theorem resetInv : Obligations.ResetInv :=
  resetWith_inv default_params_legal

end Sys2Proof.Machine

/-! ## The queue

The conditions of 60_exceptions.md R346 on the queue and its counters, and what keeps them. -/

namespace Sys2Proof.Machine

/-- What `queueValid` checks (60_exceptions.md R346 items 2 to 5). -/
structure QueueLegal (maxEvents : Nat) (q : List Event) (nextId : Word32) (nextSeq : Word64) : Prop where
  capacity : q.length ≤ maxEvents
  ids : (q.map (·.id)).Nodup
  idPos : ∀ e ∈ q, e.id ≠ 0
  periods : ∀ e ∈ q, e.period ≠ some 0
  idBelow : nextId = 0 ∨ ∀ e ∈ q, e.id.toNat < nextId.toNat
  seqBelow : ∀ e ∈ q, e.seq.toNat < nextSeq.toNat
  seqs : (q.map (·.seq)).Nodup

section
variable {m : Nat} {q : List Event} {nextId : Word32} {nextSeq : Word64}

theorem queueValid_iff : queueValid m q nextId nextSeq = true ↔ QueueLegal m q nextId nextSeq := by
  simp only [queueValid, Bool.and_eq_true, Bool.or_eq_true, decide_eq_true_eq, List.all_eq_true, bne_iff_ne,
    beq_iff_eq]
  constructor
  · rintro ⟨⟨⟨⟨⟨⟨h1, h2⟩, h3⟩, h4⟩, h5⟩, h6⟩, h7⟩
    exact ⟨h1, h2, h3, h4, h5, h6, h7⟩
  · rintro ⟨h1, h2, h3, h4, h5, h6, h7⟩
    exact ⟨⟨⟨⟨⟨⟨h1, h2⟩, h3⟩, h4⟩, h5⟩, h6⟩, h7⟩

theorem Inv.queueLegal {s : State} (h : Inv s) : QueueLegal s.params.maxEvents s.queue s.nextId s.nextSeq :=
  queueValid_iff.1 h.queue

theorem QueueLegal.filter (h : QueueLegal m q nextId nextSeq) (p : Event → Bool) :
    QueueLegal m (q.filter p) nextId nextSeq where
  capacity := (List.length_filter_le p q).trans h.capacity
  ids := h.ids.sublist (List.filter_sublist.map _)
  idPos e he := h.idPos e (List.mem_of_mem_filter he)
  periods e he := h.periods e (List.mem_of_mem_filter he)
  idBelow := h.idBelow.imp_right fun hb e he => hb e (List.mem_of_mem_filter he)
  seqBelow e he := h.seqBelow e (List.mem_of_mem_filter he)
  seqs := h.seqs.sublist (List.filter_sublist.map _)

/-- In a legal queue an id belongs to one event. -/
theorem QueueLegal.eq_of_id (h : QueueLegal m q nextId nextSeq) {x y : Event} (hx : x ∈ q) (hy : y ∈ q)
    (hid : x.id = y.id) : x = y :=
  List.inj_on_of_nodup_map h.ids hx hy hid

/-- Changing only deadlines, tags and defer bits keeps a queue legal. -/
theorem QueueLegal.map (h : QueueLegal m q nextId nextSeq) {f : Event → Event}
    (hf : ∀ e ∈ q, (f e).id = e.id ∧ (f e).period = e.period ∧ (f e).seq = e.seq) :
    QueueLegal m (q.map f) nextId nextSeq where
  capacity := by rw [List.length_map]; exact h.capacity
  ids := by
    have : (q.map f).map (·.id) = q.map (·.id) := List.map_map.trans (List.map_congr_left fun e he => (hf e he).1)
    exact this ▸ h.ids
  idPos := List.forall_mem_map.2 fun e he => (hf e he).1 ▸ h.idPos e he
  periods := List.forall_mem_map.2 fun e he => (hf e he).2.1 ▸ h.periods e he
  idBelow := h.idBelow.imp_right fun hb => List.forall_mem_map.2 fun e he => (hf e he).1 ▸ hb e he
  seqBelow := List.forall_mem_map.2 fun e he => (hf e he).2.2 ▸ h.seqBelow e he
  seqs := by
    have : (q.map f).map (·.seq) = q.map (·.seq) := List.map_map.trans (List.map_congr_left fun e he => (hf e he).2.2)
    exact this ▸ h.seqs

theorem QueueLegal.clearDefer (h : QueueLegal m q nextId nextSeq) :
    QueueLegal m (q.map fun e => { e with defer := false }) nextId nextSeq :=
  h.map fun _ _ => ⟨rfl, rfl, rfl⟩

/-! ### Arming -/

theorem putEvent_of_mem {e : Event} (h : ∃ x ∈ q, x.id = e.id) :
    putEvent e q = q.map fun x => if x.id = e.id then e else x := by
  rw [putEvent, if_pos (by simpa using h)]
  simp only [beq_iff_eq]

theorem putEvent_of_not_mem {e : Event} (h : ∀ x ∈ q, x.id ≠ e.id) : putEvent e q = q ++ [e] := by
  rw [putEvent, if_neg (by simpa using h)]

/-- A re-arm first moves the deadline of the event in its place (44_scheduler.md R251). -/
theorem QueueLegal.putEvent_deadline (h : QueueLegal m q nextId nextSeq) {e : Event} (he : e ∈ q)
    (deadline : Word64) : QueueLegal m (putEvent { e with deadline := deadline } q) nextId nextSeq := by
  rw [putEvent_of_mem (e := { e with deadline := deadline }) ⟨e, he, rfl⟩]
  refine h.map fun x hx => ?_
  split_ifs with hid
  · obtain rfl := h.eq_of_id hx he hid
    exact ⟨rfl, rfl, rfl⟩
  · exact ⟨rfl, rfl, rfl⟩

theorem toNat_add_one {n : Word64} (hn : n ≠ BitVec.allOnes 64) : (n + 1).toNat = n.toNat + 1 := by
  have : n.toNat ≠ 2 ^ 64 - 1 := fun h => hn (BitVec.eq_of_toNat_eq (by simpa using h))
  bv_omega

theorem QueueLegal.seqBelow_succ (h : QueueLegal m q nextId nextSeq) (hn : nextSeq ≠ BitVec.allOnes 64) :
    ∀ e ∈ q, e.seq.toNat < (nextSeq + 1).toNat := by
  intro e he
  have := h.seqBelow e he
  rw [toNat_add_one hn]
  omega

/-- `arm(e)` of an event in the queue: it takes the next sequence number (44_scheduler.md R241). -/
theorem QueueLegal.putEvent_rearm (h : QueueLegal m q nextId nextSeq) {e : Event} (he : ∃ x ∈ q, x.id = e.id)
    (hp : e.period ≠ some 0) (hseq : e.seq = nextSeq) (hn : nextSeq ≠ BitVec.allOnes 64) :
    QueueLegal m (putEvent e q) nextId (nextSeq + 1) := by
  have hid (x : Event) : (if x.id = e.id then e else x).id = x.id := by split_ifs with hx <;> simp [hx]
  rw [putEvent_of_mem he]
  constructor
  case capacity => simpa using h.capacity
  case ids => simpa only [List.map_map, Function.comp_def, hid] using h.ids
  case idPos => exact List.forall_mem_map.2 fun x hx => (hid x).symm ▸ h.idPos x hx
  case periods =>
    refine List.forall_mem_map.2 fun x hx => ?_
    split_ifs
    · exact hp
    · exact h.periods x hx
  case idBelow => exact h.idBelow.imp_right fun hb => List.forall_mem_map.2 fun x hx => (hid x).symm ▸ hb x hx
  case seqBelow =>
    refine List.forall_mem_map.2 fun x hx => ?_
    split_ifs
    · rw [hseq, toNat_add_one hn]
      omega
    · exact h.seqBelow_succ hn x hx
  case seqs =>
    rw [List.map_map]
    refine List.Nodup.map_on (fun x hx y hy hxy => ?_) h.ids.of_map
    have hx' := h.seqBelow x hx
    have hy' := h.seqBelow y hy
    simp only [Function.comp_apply] at hxy
    split_ifs at hxy with h1 h2 h2
    · exact h.eq_of_id hx hy (h1.trans h2.symm)
    · rw [← hxy, hseq] at hy'
      omega
    · rw [hxy, hseq] at hx'
      omega
    · exact List.inj_on_of_nodup_map h.seqs hx hy hxy

/-- Moving the id counter on keeps the queue legal (44_scheduler.md R241). -/
theorem QueueLegal.nextId_succ (h : QueueLegal m q nextId nextSeq) (hn : nextId ≠ 0) :
    QueueLegal m q (nextId + 1) nextSeq := by
  refine { h with idBelow := ?_ }
  by_cases h0 : nextId + 1 = 0
  · exact .inl h0
  · refine .inr fun e he => ?_
    have := h.idBelow.resolve_left hn e he
    bv_omega

/-- `arm(e)` of a new event: it takes the next id and the next sequence number (44_scheduler.md R241). -/
theorem QueueLegal.putEvent_new (h : QueueLegal m q nextId nextSeq) {e : Event} (hq : q.length ≠ m)
    (hid : e.id = nextId) (hid0 : nextId ≠ 0) (hp : e.period ≠ some 0) (hseq : e.seq = nextSeq)
    (hn : nextSeq ≠ BitVec.allOnes 64) : QueueLegal m (putEvent e q) (nextId + 1) (nextSeq + 1) := by
  have hbelow := h.idBelow.resolve_left hid0
  have hfresh : ∀ x ∈ q, x.id ≠ e.id := by
    intro x hx heq
    have := hbelow x hx
    rw [heq, hid] at this
    omega
  rw [putEvent_of_not_mem hfresh]
  constructor
  case capacity =>
    have := h.capacity
    simp only [List.length_append, List.length_singleton]
    omega
  case ids =>
    rw [List.map_append, List.nodup_append]
    exact ⟨h.ids, List.nodup_singleton _, by simpa using hfresh⟩
  case idPos => exact List.forall_mem_append.2 ⟨h.idPos, by simpa [hid] using hid0⟩
  case periods => exact List.forall_mem_append.2 ⟨h.periods, by simpa using hp⟩
  case idBelow =>
    by_cases h0 : nextId + 1 = 0
    · exact .inl h0
    · refine .inr (List.forall_mem_append.2 ⟨(h.nextId_succ hid0).idBelow.resolve_left h0, ?_⟩)
      rw [List.forall_mem_singleton, hid]
      bv_omega
  case seqBelow =>
    refine List.forall_mem_append.2 ⟨h.seqBelow_succ hn, ?_⟩
    rw [List.forall_mem_singleton, hseq, toNat_add_one hn]
    omega
  case seqs =>
    rw [List.map_append, List.nodup_append]
    refine ⟨h.seqs, List.nodup_singleton _, ?_⟩
    simp only [List.mem_map, List.map_cons, List.map_nil, List.mem_singleton, forall_exists_index, and_imp,
      forall_eq, forall_apply_eq_imp_iff₂]
    intro x hx heq
    have := h.seqBelow x hx
    rw [heq, hseq] at this
    omega

end

end Sys2Proof.Machine

/-! ## What keeps the invariant

One rule per update of the state: which updates give a good state again, and under which conditions. -/

namespace Sys2Proof.Machine

/-! ### Trace, responses, bus and counters -/

theorem Inv.emit {s : State} (h : Inv s) (r : TraceRec) : Inv (emit r s) :=
  h.outside s.policy s.busLatch (s.trace ++ [r]) s.cmdCount s.inbox s.responses s.saves s.draws

theorem Inv.respond {s : State} (h : Inv s) (v : Word64) : Inv (respond v s) :=
  h.outside s.policy s.busLatch s.trace s.cmdCount s.inbox (s.responses ++ [v]) s.saves s.draws

theorem Inv.withInbox {s : State} (h : Inv s) (inbox : List Input) : Inv { s with inbox := inbox } :=
  h.outside s.policy s.busLatch s.trace s.cmdCount inbox s.responses s.saves s.draws

theorem Inv.withDraws {s : State} (h : Inv s) (draws : Nat) : Inv { s with draws := draws } :=
  h.outside s.policy s.busLatch s.trace s.cmdCount s.inbox s.responses s.saves draws

theorem Inv.driveBus {s : State} (h : Inv s) (sp : Sel) (v : Byte) : Inv (driveBus sp v s) := by
  unfold Machine.driveBus
  split
  · exact h.outside s.policy _ s.trace s.cmdCount s.inbox s.responses s.saves s.draws
  · exact h
  · exact h

theorem Inv.finishRead {s : State} (h : Inv s) (sp : Sel) (v : Byte) : Inv (finishRead sp v s) :=
  (h.driveBus sp v).respond _

theorem Inv.finishWrite {s : State} (h : Inv s) (sp : Sel) (v : Byte) : Inv (finishWrite sp v s) :=
  h.driveBus sp v

theorem Inv.finishOpenBus {s : State} (h : Inv s) (sp : Sel) : Inv (finishOpenBus sp s) := by
  refine Inv.finishRead ?_ sp _
  unfold openBus
  split
  · exact h.withDraws _
  · exact h
  · exact h

theorem Inv.countCommand {s : State} (h : Inv s) : Inv (countCommand s) := by
  unfold Machine.countCommand
  split
  · exact h.outside s.policy s.busLatch s.trace _ s.inbox s.responses s.saves _
  · exact h.outside s.policy s.busLatch s.trace _ s.inbox s.responses s.saves s.draws

/-! ### Errors -/

theorem halted_eq_false_iff {s : State} : s.halted = false ↔ s.phase = .config ∨ s.phase = .run := by
  cases hp : s.phase <;> simp [State.halted, hp]

theorem halted_of_run {s : State} (h : s.phase = .run) : s.halted = false :=
  halted_eq_false_iff.2 (.inr h)

theorem Inv.cfgError_none {s : State} (h : Inv s) (hs : s.halted = false) : s.cfgError = none := by
  have := h.cfgError
  rw [← Option.not_isSome_iff_eq_none, this]
  rcases halted_eq_false_iff.1 hs with hp | hp <;> simp [hp]

theorem Inv.fault_none {s : State} (h : Inv s) (hs : s.halted = false) : s.fault = none := by
  have := h.fault
  rw [← Option.not_isSome_iff_eq_none, this]
  rcases halted_eq_false_iff.1 hs with hp | hp <;> simp [hp]

/-- In phase Config no invocation is outstanding. -/
theorem Inv.ctx_of_config {s : State} (h : Inv s) (hp : s.phase = .config) : s.ctx = .top := by
  by_contra hc
  simpa [hp] using h.ctxPhase hc

/-- A fault ends in a good state (60_exceptions.md R326), whether or not a pump was in progress. -/
theorem Inv.faultState {s : State} (h : Inv s) (hs : s.halted = false) (c : FaultCode) (n : Word64)
    (pumping : Bool := s.pumping) : Inv (faultState c n { s with pumping := pumping }) := by
  refine (h.emit (.faultRec c)).withControl s.elapsed s.cont pumping s.cfgError .faulted s.ctx (some ⟨c, n⟩)
    ⟨h.ctxTop, h.ctxCallback, (h.emit _).contLegal⟩ ⟨nofun, fun _ => .inr rfl, fun hne => absurd rfl hne, nofun, ?_, ?_⟩
  · simp [h.cfgError_none hs]
  · simp

/-- A ConfigError ends in a good state (60_exceptions.md R323). -/
theorem Inv.configErrorState {s : State} (h : Inv s) (hp : s.phase = .config) (k : CfgKind) (info : List InfoItem) :
    Inv (configErrorState k info s) := by
  have hctx := h.ctx_of_config hp
  refine (h.emit (.cfgErr k info)).withControl s.elapsed s.cont s.pumping (some ⟨k, currentIndex s, info⟩) .failed s.ctx
    s.fault ⟨h.ctxTop, h.ctxCallback, (h.emit _).contLegal⟩
    ⟨nofun, fun hne => absurd hctx hne, fun _ => h.pump (by simp [hp]), nofun, by simp, ?_⟩
  simp [h.fault_none (halted_eq_false_iff.2 (.inl hp))]

/-! ### Invocations -/

/-- An access at Top may invoke a handler (46_invocation.md R301). -/
theorem Inv.invokeHandler {s : State} (h : Inv s) (hp : s.phase = .run) (hctx : s.ctx = .top) (r : TraceRec) {k : Cont}
    {U : Word16 → Prop} (hk : HandlerCont U k) (hU : ∀ u, U u → u.toNat < s.params.numPortUnits) :
    Inv (invoke r .handler k s) := by
  have hcont : ∀ id, k ≠ .callback id := by
    rintro id rfl
    exact hk
  have hlegal : ContLegal s k := by
    cases k with
    | portIter u => exact hU u hk
    | _ => trivial
  have hpump := h.pump (by simp [hp])
  refine (h.emit r).withControl s.elapsed (some k) s.pumping s.cfgError s.phase .handler s.fault
    ⟨by simp, by simpa using hcont, fun k' hk' => ?_⟩
    ⟨h.geoSet, fun _ => .inl hp, fun _ => ?_, h.configTime, h.cfgError, h.fault⟩
  · cases hk'
    cases k <;> exact hlegal
  · simpa [hctx] using hpump

/-- A pump at Top may invoke a callback (44_scheduler.md R251). -/
theorem Inv.invokeCallback {s : State} (h : Inv s) (hp : s.phase = .run) (r : TraceRec) (id : Word32) :
    Inv (invoke r .callback (.callback id) { s with pumping := true }) :=
  (h.emit r).withControl s.elapsed (some (.callback id)) true s.cfgError s.phase .callback s.fault
    ⟨by simp, by simp, fun k hk => by cases hk; trivial⟩
    ⟨h.geoSet, fun _ => .inl hp, fun _ => by simp, h.configTime, h.cfgError, h.fault⟩

/-- At the return from an invocation, the state is good but for the pump that may be in progress (46_invocation.md
R305). -/
theorem Inv.endInvocation {s : State} (h : Inv s) :
    Inv { endInvocation s with pumping := false } :=
  h.withControl s.elapsed none false s.cfgError s.phase .top s.fault ⟨by simp, by simp, nofun⟩
    ⟨h.geoSet, fun hne => absurd rfl hne, fun _ => by simp, h.configTime, h.cfgError, h.fault⟩

/-- The continuation of a handler is none of a callback, so no pump is in progress. -/
theorem Inv.pumping_of_handler {s : State} (h : Inv s) (hp : s.phase = .run) {k : Cont} {U : Word16 → Prop}
    (hk : s.cont = some k) (hh : HandlerCont U k) : s.pumping = false := by
  have hpump := h.pump (by simp [hp])
  rw [← Bool.not_eq_true, hpump, h.ctxCallback, hk]
  rintro ⟨id, hid⟩
  cases hid
  exact hh

/-! ### Slots and cells -/

theorem bankAt_lt {s : State} {b : Nat} {k : Bank} (h : bankAt s b = some k) : b < 16 := by
  by_contra hb
  simp [bankAt, hb] at h

theorem bankAt_setBank {b : Nat} (hb : b < 16) (k : Bank) (s : State) (b' : Nat) :
    bankAt (setBank b k s) b' = if b' = b then some k else bankAt s b' := by
  split_ifs with h
  · subst h
    simp [bankAt, hb]
  · simp [bankAt, Ne.symm h]

theorem bankAt_createBank (b : Sel) (n : Word16) (size : Word32) (s : State) (b' : Nat) :
    bankAt (createBank b n size s) b' = if b' = b.toNat then some ⟨n, size, 0⟩ else bankAt s b' :=
  bankAt_setBank b.isLt _ s b'

/-- A bank select leaves the state or moves one selector, to an index below N where N is not 0. -/
theorem SelectStep.cases {s t : State} (h : SelectStep s t) :
    t = s ∨ ∃ b k y, bankAt s b = some k ∧ (1 ≤ k.n.toNat → y.toNat < k.n.toNat) ∧
      t = setBank b { k with sel := y } s := by
  obtain ⟨b, x, h⟩ := h
  obtain ⟨k, hk, ⟨hx, rfl⟩ | ⟨-, -, rfl⟩ | ⟨-, -, rfl⟩⟩ := bankSelect_ok h
  · exact .inr ⟨b, k, x, hk, fun _ => hx, rfl⟩
  · exact .inr ⟨b, k, x % k.n, hk, fun hn => BitVec.toNat_umod (x := x) ▸ Nat.mod_lt _ hn, rfl⟩
  · exact .inl rfl

theorem SelectStep.banksKept {s t : State} (h : SelectStep s t) : BanksKept s t := by
  obtain ⟨b, x, h⟩ := h
  exact SameShape.banksKept (bankSelect_shape h)

/-- Bank selects change nothing but the slots. -/
theorem Selects.eq_withBanks {s t : State} (h : Selects s t) : t = { s with banks := t.banks } := by
  induction h with
  | refl => rfl
  | tail _ hstep ih =>
    obtain rfl | ⟨b, k, y, -, -, rfl⟩ := hstep.cases
    · exact ih
    · rw [ih]
      rfl

theorem SelectStep.inv {s t : State} (hstep : SelectStep s t) (h : Inv s) : Inv t := by
  obtain rfl | ⟨b, k, y, hk, hy, rfl⟩ := hstep.cases
  · exact h
  have hb := h.banks b k hk
  have hkept := hstep.banksKept
  refine h.withSlots _ s.mem hkept (fun b' k' hk' => ?_) h.mem fun c hc => hkept.cellExists (h.memCells c hc)
  change bankAt (setBank b { k with sel := y } s) b' = some k' at hk'
  rw [bankAt_setBank (bankAt_lt hk)] at hk'
  split_ifs at hk' with hbb
  · cases hk'
    exact hbb ▸ ⟨hb.exists_, hb.buffers, hb.size_pos, hb.size_le, hy hb.buffers⟩
  · exact h.banks b' k' hk'

theorem Selects.inv {s t : State} (hs : Selects s t) (h : Inv s) : Inv t := by
  induction hs with
  | refl => exact h
  | tail _ hstep ih => exact hstep.inv ih

/-- CFG_BANK on a free slot (40_config.md R143). -/
theorem Inv.createBank {s : State} (h : Inv s) {b : Sel} {n : Word16} {size : Word32}
    (hb : b.toNat < s.params.numBanks) (hfree : bankAt s b.toNat = none) (hn : n ≠ 0) (hz : size ≠ 0)
    (hle : size.toNat ≤ 2 ^ s.params.awMax) : Inv (createBank b n size s) := by
  have hn : 0 < n.toNat := Nat.pos_of_ne_zero fun h0 => hn (BitVec.eq_of_toNat_eq h0)
  have hz : 0 < size.toNat := Nat.pos_of_ne_zero fun h0 => hz (BitVec.eq_of_toNat_eq h0)
  have hkept : BanksKept s (Machine.createBank b n size s) := by
    intro b' k hk
    have hne : b' ≠ b.toNat := by
      rintro rfl
      rw [hfree] at hk
      cases hk
    exact ⟨k, by rw [bankAt_createBank, if_neg hne, hk], rfl, rfl⟩
  refine h.withSlots _ _ hkept (fun b' k hk => ?_) (Memory.clearSlot_wf h.mem) fun c hc => ?_
  · change bankAt (Machine.createBank b n size s) b' = some k at hk
    rw [bankAt_createBank] at hk
    split_ifs at hk with hbb
    · cases hk
      exact ⟨hbb ▸ hb, hn, hz, hle, hn⟩
    · exact h.banks b' k hk
  · exact hkept.cellExists (h.memCells c (List.mem_of_mem_filter hc))

/-- A write of a cell that exists (45_bank.md R284). -/
theorem Inv.writeCell {s : State} (h : Inv s) {b : Nat} {k : Bank} {off : Word32} (v : Byte)
    (hk : bankAt s b = some k) (hoff : off.toNat < k.size.toNat) :
    Inv { s with mem := Memory.write s.params.bankInit s.mem (cellKey b k.sel off) v } := by
  refine h.withSlots s.banks _ (.of_eq rfl) h.banks (Memory.write_wf h.mem) fun c hc => ?_
  obtain hc | ⟨rfl, -⟩ := Memory.mem_write hc
  · exact h.memCells c hc
  · exact cellExists_cellKey hk (h.banks b k hk).selected hoff

/-! ### Registration -/

theorem rangeTable_addRange (sp : Sel) (e : RangeEntry) (s : State) (d : Dir) (sp' : Sel) (d' : Dir) :
    rangeTable (addRange sp e s d) sp' d' =
      if sp' = sp ∧ d' = d then rangeTable s sp' d' ++ [e] else rangeTable s sp' d' := by
  by_cases hsp : sp' = sp
  · subst hsp
    cases d <;> cases d' <;> simp [rangeTable, addRange]
  · have : sp.toNat ≠ sp'.toNat := fun heq => hsp (BitVec.eq_of_toNat_eq heq.symm)
    simp [rangeTable, addRange, hsp, this]

/-- REG_RANGE appends its entry to the table of each of its directions (40_config.md R147). -/
theorem rangeTable_addDirs (sp : Sel) (e : RangeEntry) (dm : DirSet) (s : State) (sp' : Sel) (d' : Dir) :
    rangeTable (dm.dirs.foldl (addRange sp e) s) sp' d' =
      if sp' = sp ∧ d' ∈ dm.dirs then rangeTable s sp' d' ++ [e] else rangeTable s sp' d' := by
  cases dm <;> cases d' <;> simp [DirSet.dirs, rangeTable_addRange]

theorem addDirs_eq (sp : Sel) (e : RangeEntry) (dm : DirSet) (s : State) :
    dm.dirs.foldl (addRange sp e) s = { s with ranges := (dm.dirs.foldl (addRange sp e) s).ranges } := by
  cases dm <;> rfl

/-- The target check of REG_RANGE (40_config.md R148). -/
theorem targetLegal_of_targetOk {s : State} {tk : TKind} {tid : Word16} {dm : DirSet} {size : Nat} {d : Dir}
    (h : targetOk s tk tid dm size = true) (hd : d ∈ dm.dirs) : TargetLegal s d tk tid size := by
  cases tk with
  | device => trivial
  | bank =>
    simp only [targetOk, Bool.and_eq_true] at h
    obtain ⟨-, h⟩ := h
    split at h
    · cases h
    · rename_i k hk
      exact ⟨k, hk, by simpa using h⟩
  | ports =>
    have hlt : tid.toNat < s.params.numPortUnits := of_decide_eq_true h
    exact hlt
  | banksel =>
    simp only [targetOk, Bool.and_eq_true, beq_iff_eq] at h
    obtain ⟨⟨-, hs⟩, rfl⟩ := h
    exact ⟨List.mem_singleton.1 hd, hs⟩

theorem lowMask_toNat_lt (aw : Nat) : (lowMask aw).toNat < 2 ^ aw := by
  have := Nat.two_pow_pos aw
  have : (lowMask aw).toNat ≤ 2 ^ aw - 1 := by
    rw [lowMask, BitVec.toNat_ofNat]
    exact Nat.mod_le _ _
  omega

theorem fullTable_eq_none {s : State} {sp : Sel} {dm : DirSet} (h : fullTable s sp dm = none) {d : Dir}
    (hd : d ∈ dm.dirs) : (rangeTable s sp d).length ≠ s.params.maxRanges := by
  simpa using List.find?_eq_none.1 h d hd

/-- No conflict is no common address with an entry of the tables (40_config.md R149). -/
theorem firstConflict_eq_none {s : State} {sp : Sel} {e : RangeEntry} {dm : DirSet}
    (h : firstConflict s sp e dm = none) {d : Dir} (hd : d ∈ dm.dirs) {e' : RangeEntry}
    (he' : e' ∈ rangeTable s sp d) {a : Word32} (ha' : covers (spaceAw s sp) e' a = true) :
    covers (spaceAw s sp) e a = false := by
  have hd := List.findSome?_eq_none_iff.1 h d hd
  rw [Option.map_eq_none_iff, List.find?_eq_none] at hd
  obtain ⟨i, hi⟩ := List.mem_iff_getElem?.1 he'
  have := hd (e', i) (List.mk_mem_zipIdx_iff_getElem?.2 hi)
  rw [overlaps_iff] at this
  by_contra ha
  exact this ⟨a, by simpa using ha, ha'⟩

/-- REG_RANGE that passes its checks (40_config.md R147 to R150). -/
theorem Inv.addDirs {s : State} (h : Inv s) {sp : Sel} {dm : DirSet} {e : RangeEntry}
    (hsp : sp.toNat < s.params.numSpaces) (hlegal : ∀ d ∈ dm.dirs, RangeLegal s sp d e)
    (hfull : fullTable s sp dm = none) (hover : e.ovr = false → firstConflict s sp e dm = none) :
    Inv (dm.dirs.foldl (addRange sp e) s) := by
  rw [addDirs_eq]
  have htable (sp' : Sel) (d' : Dir) : rangeTable { s with ranges := (dm.dirs.foldl (addRange sp e) s).ranges } sp' d' =
      if sp' = sp ∧ d' ∈ dm.dirs then rangeTable s sp' d' ++ [e] else rangeTable s sp' d' := by
    rw [← addDirs_eq, rangeTable_addDirs]
  have hkept : BanksKept s { s with ranges := (dm.dirs.foldl (addRange sp e) s).ranges } := .of_eq rfl
  refine h.withRanges _ ?_
  constructor
  case legal =>
    intro sp' d' e' he'
    refine hkept.rangeLegal rfl ?_
    rw [htable] at he'
    split_ifs at he' with hd
    · obtain ⟨rfl, hd⟩ := hd
      obtain he' | he' := List.mem_append.1 he'
      · exact h.ranges _ _ _ he'
      · obtain rfl := List.mem_singleton.1 he'
        exact hlegal _ hd
    · exact h.ranges _ _ _ he'
  case overrides =>
    intro sp' d'
    rw [htable]
    split_ifs with hd
    · obtain ⟨rfl, hd⟩ := hd
      refine List.pairwise_append.2 ⟨h.overrides _ _, List.pairwise_singleton _ _, ?_⟩
      simp only [List.forall_mem_singleton]
      intro e' he' a ha' ha
      by_contra ho
      have := firstConflict_eq_none (hover (by simpa using ho)) hd he' ha'
      exact absurd (ha.symm.trans this) (by simp)
    · exact h.overrides _ _
  case cap =>
    intro sp' d'
    have := h.rangeCap sp' d'
    rw [htable]
    split_ifs with hd
    · obtain ⟨rfl, hd⟩ := hd
      have := fullTable_eq_none hfull hd
      simp only [List.length_append, List.length_singleton]
      omega
    · exact this
  case unused =>
    intro sp' d' hsp'
    rw [htable, if_neg]
    · exact h.rangeUnused sp' d' hsp'
    · rintro ⟨rfl, -⟩
      exact absurd hsp (not_lt.2 hsp')

theorem portList_addPort (u : Sel) (e : PortEntry) (s : State) (u' : Nat) :
    portList (addPort u e s) u' =
      if u' = u.toNat then some (s.ports[u.toNat]'u.isLt ++ [e]) else portList s u' := by
  have := u.isLt
  split_ifs with h
  · subst h
    simp [portList]
  · simp [portList, Ne.symm h]

theorem portLegal_of_portTargetOk {s : State} {tk : TKind} {tid : Word16} {d : Dir} {bitmask : Word32}
    (h : portTargetOk s tk tid d = true) : PortLegal s ⟨bitmask, d, tk, tid⟩ := by
  simp only [portTargetOk, Bool.or_eq_true, Bool.and_eq_true, beq_iff_eq] at h
  obtain h | ⟨⟨⟨h1, h2⟩, -⟩, h3⟩ := h
  · exact .inl h
  · exact .inr ⟨h1, h2, h3⟩

/-- REG_PORT that passes its checks (40_config.md R153). -/
theorem Inv.addPort {s : State} (h : Inv s) {u : Sel} {e : PortEntry} (he : PortLegal s e)
    (hl : (s.ports[u.toNat]'u.isLt).length ≠ s.params.maxPortEntries) : Inv (addPort u e s) := by
  have hkept : BanksKept s (Machine.addPort u e s) := .of_eq rfl
  refine h.withPorts _ fun u' es hes => ?_
  change portList (Machine.addPort u e s) u' = some es at hes
  rw [portList_addPort] at hes
  split_ifs at hes with hu
  · cases hes
    obtain ⟨hlegal, hcap⟩ := h.ports u.toNat (s.ports[u.toNat]'u.isLt) (Vector.getElem?_eq_getElem u.isLt)
    refine ⟨List.forall_mem_append.2 ⟨fun e' he' => hkept.portLegal (hlegal e' he'), ?_⟩, ?_⟩
    · exact List.forall_mem_singleton.2 (hkept.portLegal he)
    · simp only [List.length_append, List.length_singleton]
      omega
  · obtain ⟨hlegal, hcap⟩ := h.ports u' es hes
    exact ⟨fun e' he' => hkept.portLegal (hlegal e' he'), hcap⟩

/-- The entry of a REG_RANGE that passes its checks is legal (40_config.md R147, R148). -/
theorem rangeLegal_newRange {s : State} {sp : Sel} {dm : DirSet} {ovr : Bool} {tk : TKind} {lo hi mask : Word32}
    {tid : Word16} (hle : lo.toNat ≤ hi.toNat) (hin : hi.toNat < 2 ^ spaceAw s sp)
    (hm : maskOk lo hi (newRange s sp ovr tk lo hi mask tid).mask = true)
    (ht : targetOk s tk tid dm (hi.toNat - lo.toNat + 1) = true) {d : Dir} (hd : d ∈ dm.dirs) :
    RangeLegal s sp d (newRange s sp ovr tk lo hi mask tid) where
  ordered := hle
  inSpace := hin
  maskInSpace := by
    refine lt_of_le_of_lt ?_ (lowMask_toNat_lt _)
    rw [newRange, BitVec.toNat_and]
    exact Nat.and_le_right
  fold := (maskOk_iff lo hi _).1 hm
  target := targetLegal_of_targetOk ht hd

theorem Inv.start {s : State} (h : Inv s) (hp : s.phase = .config) (hg : s.geo.isSome) :
    Inv { s with phase := .run } := by
  have hctx := h.ctx_of_config hp
  refine h.withControl s.elapsed s.cont s.pumping s.cfgError .run s.ctx s.fault
    (h.invocationLegal.congr rfl rfl rfl)
    ⟨fun _ => hg, fun _ => .inl rfl, fun _ => h.pump (by simp [hp]), nofun, ?_, ?_⟩
  · simp [h.cfgError_none (halted_eq_false_iff.2 (.inl hp))]
  · simp [h.fault_none (halted_eq_false_iff.2 (.inl hp))]

/-! ### Accesses -/

theorem Inv.port_of_named {s : State} (h : Inv s) {u : Word16} (hu : NamedUnit s u) :
    u.toNat < s.params.numPortUnits := by
  obtain ⟨sp, d, e, he, htk, rfl⟩ := hu
  have := (h.ranges sp d e he).target
  rw [htk] at this
  exact this

theorem Inv.port_of_suspended {s : State} (h : Inv s) {u : Word16} (hu : SuspendedUnit s u) :
    u.toNat < s.params.numPortUnits := by
  obtain ⟨d, o, v, k, acc, sp, hk⟩ := hu
  exact h.contLegal _ hk

theorem ReadEffect.inv {U : Word16 → Prop} {s t : State} (hr : ReadEffect U s t) (h : Inv s) (hp : s.phase = .run)
    (hctx : s.ctx = .top) (hU : ∀ u, U u → u.toNat < s.params.numPortUnits) : Inv t := by
  cases hr with
  | done sp v => exact h.finishRead sp v
  | openBus sp => exact h.finishOpenBus sp
  | invoke hid o k hk => exact h.invokeHandler hp hctx _ hk hU
  | fault c => exact h.faultState (halted_of_run hp) c _

theorem WriteEffect.inv {U : Word16 → Prop} {s t : State} (hw : WriteEffect U s t) (h : Inv s) (hp : s.phase = .run)
    (hctx : s.ctx = .top) (hU : ∀ u, U u → u.toNat < s.params.numPortUnits) : Inv t := by
  cases hw with
  | done sp v hs => exact (hs.inv h).finishWrite sp v
  | invoke hid o v k hs hk =>
    have heq := hs.eq_withBanks
    exact (hs.inv h).invokeHandler (heq ▸ hp) (heq ▸ hctx) _ hk (heq ▸ hU)
  | fault c hs => exact (hs.inv h).faultState (halted_of_run (hs.eq_withBanks ▸ hp)) c _

end Sys2Proof.Machine

/-! ## Every step keeps the invariant -/

namespace Sys2Proof.Machine

/-! ### The queue of a good state -/

theorem Inv.withQueueLegal {s : State} (h : Inv s) (q : List Event) (nextId : Word32) (nextSeq : Word64)
    (hq : QueueLegal s.params.maxEvents q nextId nextSeq) :
    Inv { s with queue := q, nextId := nextId, nextSeq := nextSeq } :=
  h.withQueue q nextId nextSeq (queueValid_iff.2 hq)

theorem mem_putEvent_self (e : Event) (q : List Event) : e ∈ putEvent e q := by
  by_cases h : ∃ x ∈ q, x.id = e.id
  · obtain ⟨x, hx, hid⟩ := h
    rw [putEvent_of_mem ⟨x, hx, hid⟩]
    exact List.mem_map.2 ⟨x, hx, if_pos hid⟩
  · rw [putEvent_of_not_mem (by simpa using h)]
    simp

/-! ### The pump -/

theorem afterPick_eq (s : State) : afterPick s = { s with draws := (afterPick s).draws } := by
  unfold afterPick
  split <;> rfl

/-- `pump_continue()` in a pump at Top gives a good state: the pump ends, a callback is invoked, or a fault stops it
(44_scheduler.md R251). -/
theorem PumpEffect.inv {s t : State} (hpe : PumpEffect s t) (h : Inv { s with pumping := false })
    (hp : s.phase = .run) (hpump : s.pumping = true) : Inv t := by
  have hq : QueueLegal s.params.maxEvents s.queue s.nextId s.nextSeq := h.queueLegal
  have hpick : afterPick s =
      { { s with pumping := false } with pumping := true, draws := (afterPick s).draws } := by
    rw [← hpump]
    exact afterPick_eq s
  have h' := h.withDraws (afterPick s).draws
  have hs : ({ s with pumping := false, draws := (afterPick s).draws } : State).halted = false := halted_of_run hp
  cases hpe with
  | ends => exact h
  | oneShot he =>
    rw [hpick]
    exact (h'.withQueueLegal _ _ _ (hq.filter _)).invokeCallback hp _ _
  | @rearm e p he hper ht hn =>
    have hmem := (pickDue_mem he).1
    rw [hpick]
    refine (h'.withQueueLegal _ _ _ ?_).invokeCallback hp _ _
    exact (hq.putEvent_deadline hmem _).putEvent_rearm ⟨_, mem_putEvent_self _ _, rfl⟩ (hq.periods e hmem) rfl hn
  | overflow =>
    rw [hpick]
    exact h'.faultState hs _ _ true
  | seqSpent he =>
    rw [hpick]
    exact (h'.withQueueLegal _ _ _ (hq.putEvent_deadline (pickDue_mem he).1 _)).faultState hs _ _ true

/-- The state in which STEP starts its pump, but for the pump itself (44_scheduler.md R250, R251). -/
theorem Inv.pumpStart {s : State} (h : Inv s) (hp : s.phase = .run) (hctx : s.ctx = .top) (elapsed : Word64) :
    Inv { pumpStart { s with elapsed := elapsed } with pumping := false } :=
  (h.withControl elapsed s.cont false s.cfgError s.phase s.ctx s.fault (h.invocationLegal.congr rfl rfl rfl)
    ⟨h.geoSet, h.ctxPhase, fun _ => by simp [hctx], fun hc => absurd (hp.symm.trans hc) (by simp), h.cfgError,
      h.fault⟩).withQueueLegal _ _ _ h.queueLegal.clearDefer

/-! ### Commands -/

theorem Inv.endInvocation_handler {s : State} (h : Inv s) (hp : s.phase = .run) {k : Cont} {U : Word16 → Prop}
    (hk : s.cont = some k) (hh : HandlerCont U k) : Inv (Machine.endInvocation s) := by
  have heq : Machine.endInvocation s = { Machine.endInvocation s with pumping := false } := by
    rw [← h.pumping_of_handler hp hk hh]
    rfl
  rw [heq]
  exact h.endInvocation

theorem Effect.inv {i : Instr} {s t : State} (he : Effect i s t) (h : Inv s) : Inv t := by
  cases he with
  | fault c hs => exact h.faultState hs c _
  | configError k info hp => exact h.configErrorState hp k info
  | cfgGeometry g _ hg => exact h.withGeo hg
  | cfgBank b n size _ hb hfree hn hz hle => exact h.createBank hb hfree hn hz hle
  | cfgPortunit => exact h.outside _ s.busLatch s.trace s.cmdCount s.inbox s.responses s.saves s.draws
  | regRange sp dm ovr tk lo hi mask tid _ hsp hle hin hm ht hf hc =>
    exact h.addDirs hsp (fun d hd => rangeLegal_newRange hle hin hm ht hd) hf hc
  | regPort u dm tk bitmask tid _ ht hl => exact h.addPort (portLegal_of_portTargetOk ht) hl
  | start hp hg => exact h.start hp hg
  | answer v => exact h.respond v
  | read sp wid a ha hr => exact hr.inv h ha.1 ha.2.1 fun _ => h.port_of_named
  | readUnmapped sp => exact (h.emit _).finishOpenBus sp
  | write sp wid v a ha hw => exact hw.inv h ha.1 ha.2.1 fun _ => h.port_of_named
  | writeUnmapped sp wid v => exact (h.emit _).finishWrite sp v
  | writeCell sp wid v a _ hk hoff => exact (h.writeCell v hk hoff).finishWrite sp v
  | step c hp hctx _ hpe => exact hpe.inv (h.pumpStart hp hctx _) hp rfl
  | schedule delay period tag _ hper _ hq hid hseq =>
    exact (h.withQueueLegal _ _ _ (h.queueLegal.putEvent_new hq rfl hid hper rfl hseq)).respond _
  | scheduleSpent hs _ hid =>
    exact (h.withQueueLegal s.queue _ s.nextSeq (h.queueLegal.nextId_succ hid)).faultState hs _ _
  | cancel => exact h.withQueueLegal _ _ _ (h.queueLegal.filter _)
  | bankSelect b x hstep => exact hstep.inv h
  | hretRead d hp hk hh hr =>
    exact hr.inv (h.endInvocation_handler hp hk hh) hp rfl fun _ => h.port_of_suspended
  | hretWrite d hp hk hh hw =>
    exact hw.inv (h.endInvocation_handler hp hk hh) hp rfl fun _ => h.port_of_suspended
  | hretPump d hp hk hpe =>
    have hpump := (h.pump (by simp [hp])).2 (h.ctxCallback.2 ⟨_, hk⟩)
    exact hpe.inv h.endInvocation hp hpump

/-! ### Host operations -/

/-- The checks of R346, taken apart. -/
theorem snapshotValid_parts {s : State} {img : Snapshot} (h : snapshotValid s img = true) :
    (∀ b, slotFits (bankAt s b) (img.banks[b]?).join = true) ∧ Memory.wf s.params.bankInit img.mem = true ∧
    (∀ c ∈ img.mem, cellExists s.banks c.1 = true) ∧
    QueueLegal s.params.maxEvents img.queue img.nextId img.nextSeq := by
  simp only [snapshotValid, Bool.and_eq_true, List.all_eq_true, List.mem_range, queueValid_iff] at h
  obtain ⟨⟨⟨⟨hfit, hwf⟩, hcells⟩, hq⟩, -⟩ := h
  refine ⟨fun b => ?_, hwf, hcells, hq⟩
  by_cases hb : b < 16
  · exact hfit b hb
  · simp [bankAt, hb, slotFits]

theorem slotFits_iff {cur img : Option Bank} :
    slotFits cur img = true ↔ (cur = none ∧ img = none) ∨
      ∃ c i, cur = some c ∧ img = some i ∧ i.n = c.n ∧ i.size = c.size ∧ i.sel.toNat < c.n.toNat := by
  cases cur <;> cases img <;> simp [slotFits, and_assoc]

/-- A restore of a valid image gives each slot the image's record (60_exceptions.md R345). -/
theorem bankAt_restoreState {s : State} {img : Snapshot} {b : Nat}
    (hfit : slotFits (bankAt s b) (img.banks[b]?).join = true) :
    bankAt (restoreState img s) b = (img.banks[b]?).join := by
  by_cases hb : b < 16
  · simp only [bankAt, restoreState, Vector.getElem?_eq_getElem hb, Option.join_some, Vector.getElem_ofFn,
      Fin.getElem_fin] at hfit ⊢
    obtain ⟨hs, hi⟩ | ⟨c, i, hs, hi, hn, hz, -⟩ := slotFits_iff.1 hfit
    · rw [hs, hi]
    · rw [hs, hi]
      simp only [← hn, ← hz]
  · simp [bankAt, hb]

theorem Inv.restoreState {s : State} (h : Inv s) (hp : s.phase = .run) {img : Snapshot}
    (hv : snapshotValid s img = true) : Inv (restoreState img s) := by
  obtain ⟨hfit, hwf, hcells, hq⟩ := snapshotValid_parts hv
  have hat (b : Nat) := bankAt_restoreState (hfit b)
  have hkept : BanksKept s (Machine.restoreState img s) := by
    intro b k hk
    obtain ⟨hs, -⟩ | ⟨c, i, hs, hi, hn, hz, -⟩ := slotFits_iff.1 (hfit b)
    · rw [hk] at hs
      cases hs
    · obtain rfl := Option.some.inj (hk.symm.trans hs)
      exact ⟨i, (hat b).trans hi, hn, hz⟩
  have hslots := h.withSlots (Machine.restoreState img s).banks img.mem hkept (fun b k hk => ?_) hwf
    fun c hc => hkept.cellExists (hcells c hc)
  · exact ((hslots.withQueueLegal _ _ _ hq.clearDefer).withControl img.elapsed s.cont s.pumping s.cfgError s.phase s.ctx
      s.fault (h.invocationLegal.congr rfl rfl rfl)
      ⟨h.geoSet, h.ctxPhase, h.pump, fun hc => absurd (hp.symm.trans hc) (by simp), h.cfgError, h.fault⟩).outside
      s.policy (restoredLatches s img) s.trace s.cmdCount s.inbox s.responses s.saves s.draws
  · change bankAt (Machine.restoreState img s) b = some k at hk
    obtain ⟨-, hi⟩ | ⟨c, i, hs, hi, hn, hz, hsel⟩ := slotFits_iff.1 (hfit b)
    · rw [hat, hi] at hk
      cases hk
    · rw [hat, hi] at hk
      cases hk
      obtain ⟨h1, h2, h3, h4, -⟩ := h.banks b c hs
      exact ⟨h1, hn ▸ h2, hz ▸ h3, hz ▸ h4, hn ▸ hsel⟩

theorem restoreSnapshot_inv {s t : State} {img : Snapshot} (h : Inv s) (hr : restoreSnapshot img s = .next t) :
    Inv t := by
  have hfault (c : FaultCode) (hs : s.halted = false) (hr : raiseFault c s = .next t) : Inv t :=
    raiseFault_eq_next.1 hr ▸ h.faultState hs c _
  obtain ⟨-, hr⟩ | ⟨hs, -, hr⟩ | ⟨hs, hp, hr⟩ := inPhase_cases hr
  · cases hr
  · exact hfault _ hs hr.symm
  · split_ifs at hr with hc hv
    · exact hfault _ hs hr.symm
    · exact hfault _ hs hr.symm
    · cases hr
      exact h.restoreState (List.mem_singleton.1 hp) (by simpa using hv)

theorem serveHost_inv {i : Input} {rest : List Input} {s t : State} (h : Inv s) (hr : serveHost i rest s = .next t) :
    Inv t := by
  cases i with
  | save =>
    cases hr
    exact h.outside s.policy s.busLatch s.trace s.cmdCount rest s.responses _ s.draws
  | restore img => exact restoreSnapshot_inv (h.withInbox rest) hr
  | reset =>
    cases hr
    exact ((resetWith_inv h.params).withInbox rest).withDraws _
  | header => cases hr
  | operand => cases hr

theorem servePast_inv {serve : Input → Bool} {r : Result} {s t : State} (h : Inv s)
    (hr : servePast serve r s = .next t) (hother : r ≠ .next t) : Inv t := by
  unfold servePast at hr
  split at hr
  · exact serveHost_inv h hr
  · exact absurd hr hother

/-! ### The step -/

theorem runGroup_inv {hd : Word32} {ws : List Word64} {s t : State} (h : Inv s)
    (hr : runGroup hd ws s = .next t) (hs : s.halted = false) : Inv t := by
  unfold runGroup at hr
  split at hr
  · cases hr
    exact h.faultState hs .illegal _
  · exact (exec_effect hr).inv h.countCommand

/-- Settles O54: each input the step takes runs a command, an illegal group or a host operation, and each of them
keeps the invariant. -/
theorem stepKeepsInv : Obligations.StepKeepsInv := by
  intro s t h hr
  unfold step at hr
  split at hr
  · exact servePast_inv h hr nofun
  rename_i hs
  split at hr
  · cases hr
    exact h
  · split at hr
    · exact runGroup_inv (h.withInbox _) hr (Bool.eq_false_iff.2 hs)
    · cases hr
      exact h
    · exact servePast_inv h hr nofun
    · exact servePast_inv h hr nofun
  · exact servePast_inv h hr nofun
  · exact serveHost_inv h hr
  · exact serveHost_inv h hr
  · exact serveHost_inv h hr

/-- What every step of a machine keeps holds along its runs. -/
theorem run_keeps {M : Host.Core} {P : M.State → Prop} (hstep : ∀ s t, P s → M.step s = .next t → P t) (k : Nat)
    {s t : M.State} (h : P s) (hr : M.run k s = .next t) : P t := by
  induction k generalizing s with
  | zero =>
    cases hr
    exact h
  | succ k ih =>
    rw [Host.Core.run] at hr
    split at hr
    · rename_i u hu
      exact ih (hstep s u h hu) hr
    · cases hr
    · cases hr

theorem Reachable.inv {s : State} (h : Reachable s) : Inv s := by
  obtain ⟨p, inputs, k, hp, hr⟩ := h
  exact run_keeps (M := Sys2Proof.core) (P := Inv) stepKeepsInv k ((resetWith_inv hp).withInbox inputs) hr

end Sys2Proof.Machine

/-! ## Progress

In a good state no meaning stops: the model's own faults need what the invariant rules out (log 6). -/

namespace Sys2Proof.Machine

/-- The outcome is a next state. -/
def Advances (r : Result) : Prop :=
  ∃ t, r = .next t

theorem advances_next (t : State) : Advances (.next t) :=
  ⟨t, rfl⟩

theorem advances_raiseFault (c : FaultCode) (s : State) : Advances (raiseFault c s) :=
  ⟨_, rfl⟩

theorem advances_raiseConfig (k : CfgKind) (info : List InfoItem) (s : State) : Advances (raiseConfig k info s) :=
  ⟨_, rfl⟩

theorem advances_inPhase {ps : List Phase} {s : State} {body : Result} (hs : s.halted = false)
    (hbody : s.phase ∈ ps → Advances body) : Advances (inPhase ps s body) := by
  by_cases hp : s.phase ∈ ps
  · rw [inPhase_of_mem hs hp]
    exact hbody hp
  · rw [inPhase_of_not_mem hs hp]
    exact advances_raiseFault _ _

/-! ### Registration -/

theorem execCfgGeometry_advances {s : State} (hs : s.halted = false) (cpl lpf hbs hbe vbs vbe : Word32) :
    Advances (execCfgGeometry cpl lpf hbs hbe vbs vbe s) := by
  refine advances_inPhase hs fun _ => ?_
  dsimp only
  split_ifs
  · exact advances_next _
  · exact advances_raiseConfig _ _ _

theorem execCfgBank_advances {s : State} (hs : s.halted = false) (b : Sel) (n : Word16) (size : Word32) :
    Advances (execCfgBank b n size s) := by
  refine advances_inPhase hs fun _ => ?_
  split_ifs
  · exact advances_raiseConfig _ _ _
  · exact advances_raiseConfig _ _ _
  · exact advances_next _

theorem execCfgPortunit_advances {s : State} (hs : s.halted = false) (u : Sel) (p : Policy) :
    Advances (execCfgPortunit u p s) := by
  refine advances_inPhase hs fun _ => ?_
  split_ifs
  · exact advances_raiseConfig _ _ _
  · exact advances_next _

theorem execRegRange_advances {s : State} (hs : s.halted = false) (sp : Sel) (dm : DirSet) (ovr : Bool) (tk : TKind)
    (lo hi mask : Word32) (tid : Word16) : Advances (execRegRange sp dm ovr tk lo hi mask tid s) := by
  refine advances_inPhase hs fun _ => ?_
  dsimp only
  generalize (if ovr = true then none else firstConflict s sp _ dm) = conflict
  split_ifs
  · exact advances_raiseConfig _ _ _
  · exact advances_raiseConfig _ _ _
  · exact advances_raiseConfig _ _ _
  · exact advances_raiseConfig _ _ _
  · cases fullTable s sp dm with
    | some d => exact advances_raiseConfig _ _ _
    | none =>
      cases conflict with
      | some p => exact advances_raiseConfig _ _ _
      | none => exact advances_next _

theorem execRegPort_advances {s : State} (hs : s.halted = false) (u : Sel) (dm : DirSet) (tk : TKind)
    (bitmask : Word32) (tid : Word16) : Advances (execRegPort u dm tk bitmask tid s) := by
  refine advances_inPhase hs fun _ => ?_
  split_ifs
  · exact advances_raiseConfig _ _ _
  · exact advances_raiseConfig _ _ _
  · exact advances_raiseConfig _ _ _
  · exact advances_next _

theorem execStart_advances {s : State} (hs : s.halted = false) : Advances (execStart s) := by
  refine advances_inPhase hs fun _ => ?_
  split_ifs
  · exact advances_raiseConfig _ _ _
  · exact advances_next _

/-! ### Queries -/

theorem rasterQuery_advances {s : State} (h : Inv s) (hs : s.halted = false) (f : Geometry → Word64) :
    Advances (rasterQuery s f) := by
  refine advances_inPhase hs fun hp => ?_
  obtain ⟨g, hg⟩ := Option.isSome_iff_exists.1 (h.geoSet (List.mem_singleton.1 hp))
  rw [hg]
  exact advances_next _

theorem execBankActive_advances {s : State} (hs : s.halted = false) (b : Sel) : Advances (execBankActive b s) := by
  refine advances_inPhase hs fun _ => ?_
  cases namedBank s b with
  | none => exact advances_raiseFault _ _
  | some k => exact advances_next _

/-! ### Bank operations -/

/-- A bank select of a configured slot that ends the command ends it with a fault. -/
theorem advances_of_bankSelect_error {b : Nat} {x : Word16} {s : State} {r : Result}
    (hb : (bankAt s b).isSome) (h : bankSelect b x s = .error r) : Advances r := by
  obtain ⟨hnone, -⟩ | ⟨-, -, -, -, rfl⟩ := bankSelect_error h
  · simp [hnone] at hb
  · exact advances_raiseFault _ _

theorem namedBank_some {s : State} {b : Sel} {k : Bank} (h : namedBank s b = some k) :
    bankAt s b.toNat = some k := by
  unfold namedBank at h
  split_ifs at h
  exact h

theorem execBankSelect_advances {s : State} (hs : s.halted = false) (b : Sel) (x : Word16) :
    Advances (execBankSelect b x s) := by
  refine advances_inPhase hs fun _ => ?_
  cases hn : namedBank s b with
  | none => exact advances_raiseFault _ _
  | some k =>
    cases hsel : bankSelect b.toNat x s with
    | ok s' => exact advances_next _
    | error r => exact advances_of_bankSelect_error (by simp [namedBank_some hn]) hsel

/-! ### Port dispatch -/

theorem portList_isSome {s : State} (h : s.params.Legal) {u : Word16} (hu : u.toNat < s.params.numPortUnits) :
    ∃ es, portList s u.toNat = some es := by
  obtain ⟨-, -, h16, -⟩ := h
  exact ⟨_, Vector.getElem?_eq_getElem (lt_of_lt_of_le hu h16)⟩

theorem portRead_advances {s : State} (hparams : s.params.Legal) (hports : PortsLegal s) {u : Word16}
    (hu : u.toNat < s.params.numPortUnits) (o : Word32) (sp : Sel) (acc : Option Byte) (k : Nat) :
    Advances (portRead u o sp acc k s) := by
  obtain ⟨es, hes⟩ := portList_isSome hparams hu
  simp only [portRead, hes]
  obtain ⟨-, ⟨v, -, hr⟩ | ⟨-, hr⟩⟩ | ⟨e, -, j, -, -, hr⟩ | ⟨e, he, hm, hdev, -⟩ :=
    dispatchRead_cases (rfl : dispatchRead u o sp acc k (es.drop k) s = _)
  · exact ⟨_, hr⟩
  · exact ⟨_, hr⟩
  · exact ⟨_, hr⟩
  · obtain hd | ⟨-, hw, -⟩ := (hports _ es hes).1 e (List.mem_of_mem_drop he)
    · exact absurd hd hdev
    · simp [portMatches, hw] at hm

theorem portWrite_advances {s : State} (hparams : s.params.Legal) (hports : PortsLegal s) {u : Word16}
    (hu : u.toNat < s.params.numPortUnits) (o : Word32) (v : Byte) (sp : Sel) (k : Nat) :
    Advances (portWrite u o v sp k s) := by
  obtain ⟨es, hes⟩ := portList_isSome hparams hu
  have hlegal := fun e he => (hports _ es hes).1 e (List.mem_of_mem_drop (i := k) he)
  simp only [portWrite, hes]
  obtain ⟨s', -, -, hr | ⟨e, -, j, -, -, hr⟩ | ⟨e, -, -, -, -, hr⟩ | ⟨e, he, -, htk, hnone, -⟩ |
    ⟨e, he, -, htk, -⟩⟩ := dispatchWrite_cases (rfl : dispatchWrite u o v sp k (es.drop k) s = _)
  · exact ⟨_, hr⟩
  · exact ⟨_, hr⟩
  · exact ⟨_, hr⟩
  · obtain hd | ⟨-, -, hb⟩ := hlegal e he
    · simp [hd] at htk
    · simp [hnone] at hb
  · obtain hd | ⟨hd, -, -⟩ := hlegal e he <;> simp [hd] at htk

/-! ### READ and WRITE -/

theorem advances_accessChecks {s : State} (hs : s.halted = false) {sp : Sel} {wid : BitVec 2} {a : Word32}
    {body : Result} (hbody : Advances body) : Advances (accessChecks sp wid a s body) := by
  refine advances_inPhase hs fun _ => ?_
  split_ifs
  · exact advances_raiseFault _ _
  · exact advances_raiseFault _ _
  · exact advances_raiseFault _ _
  · exact advances_raiseFault _ _
  · exact hbody

/-- The offset of an address of the decoded set, without wrapping (20_memory.md R64). -/
theorem rangeOffset_toNat {aw : Nat} {e : RangeEntry} {a : Word32} (h : covers aw e a = true) :
    (rangeOffset a e).toNat = (canonical a e).toNat - e.lo.toNat ∧
      (rangeOffset a e).toNat < e.hi.toNat - e.lo.toNat + 1 := by
  simp only [covers, Bool.and_eq_true, decide_eq_true_eq] at h
  obtain ⟨⟨-, hlo⟩, hhi⟩ := h
  rw [rangeOffset, BitVec.toNat_sub_of_le hlo]
  omega

/-- A BANK range leads to cells of a configured slot (40_config.md R148). -/
theorem RangeLegal.bank_cell {s : State} {sp : Sel} {d : Dir} {e : RangeEntry} (h : RangeLegal s sp d e)
    (htk : e.tkind = .bank) {a : Word32} (ha : covers (spaceAw s sp) e a = true) :
    ∃ k, bankAt s e.tid.toNat = some k ∧ (rangeOffset a e).toNat < k.size.toNat := by
  have ht := h.target
  rw [htk] at ht
  obtain ⟨k, hk, hsize⟩ := ht
  exact ⟨k, hk, hsize ▸ (rangeOffset_toNat ha).2⟩

theorem readTarget_advances {s : State} (h : Inv s) {sp : Sel} {a : Word32} {e : RangeEntry}
    (he : lookup s sp .r a = some e) : Advances (readTarget sp a e s) := by
  obtain ⟨hmem, hcov⟩ := lookup_some he
  have hlegal := h.ranges sp .r e hmem
  have ht := hlegal.target
  unfold readTarget
  cases htk : e.tkind with
  | device => exact advances_next _
  | bank =>
    cases hr : bufRead e.tid.toNat (rangeOffset a e) s with
    | ok v => exact advances_next _
    | error r =>
      obtain ⟨k, hk, hoff⟩ := hlegal.bank_cell htk hcov
      obtain ⟨hnone, -⟩ | ⟨k', hk', hge, -⟩ | ⟨-, -, -, -, rfl⟩ := bufRead_error hr
      · simp [hk] at hnone
      · obtain rfl := Option.some.inj (hk.symm.trans hk')
        omega
      · exact advances_raiseFault _ _
  | ports =>
    rw [htk] at ht
    exact portRead_advances h.params h.ports ht _ _ _ _
  | banksel =>
    rw [htk] at ht
    exact absurd ht.1 (by simp)

theorem writeTarget_advances {s : State} (h : Inv s) {sp : Sel} {v : Byte} {a : Word32} {e : RangeEntry}
    (he : lookup s sp .w a = some e) : Advances (writeTarget sp v a e s) := by
  obtain ⟨hmem, hcov⟩ := lookup_some he
  have hlegal := h.ranges sp .w e hmem
  have ht := hlegal.target
  unfold writeTarget
  cases htk : e.tkind with
  | device => exact advances_next _
  | bank =>
    cases hr : bufWrite e.tid.toNat (rangeOffset a e) v s with
    | ok s' => exact advances_next _
    | error r =>
      obtain ⟨k, hk, hoff⟩ := hlegal.bank_cell htk hcov
      obtain ⟨hnone, -⟩ | ⟨k', hk', hge, -⟩ := bufWrite_error hr
      · simp [hk] at hnone
      · obtain rfl := Option.some.inj (hk.symm.trans hk')
        omega
  | ports =>
    rw [htk] at ht
    exact portWrite_advances h.params h.ports ht _ _ _ _
  | banksel =>
    rw [htk] at ht
    cases hsel : bankSelect e.tid.toNat (v.setWidth 16) s with
    | ok s' => exact advances_next _
    | error r => exact advances_of_bankSelect_error ht.2 hsel

theorem execRead_advances {s : State} (h : Inv s) (hs : s.halted = false) (sp : Sel) (wid : BitVec 2) (a : Word32) :
    Advances (execRead sp wid a s) := by
  refine advances_accessChecks hs ?_
  cases he : lookup s sp .r a with
  | none => exact advances_next _
  | some e => exact readTarget_advances h he

theorem execWrite_advances {s : State} (h : Inv s) (hs : s.halted = false) (sp : Sel) (wid : BitVec 2) (v : Byte)
    (a : Word32) : Advances (execWrite sp wid v a s) := by
  refine advances_accessChecks hs ?_
  cases he : lookup s sp .w a with
  | none => exact advances_next _
  | some e => exact writeTarget_advances h he

/-! ### The scheduler and HRET -/

theorem pumpContinue_advances (s : State) : Advances (pumpContinue s) := by
  obtain ⟨-, hr⟩ | ⟨e, -, ⟨s', -, hr⟩ | hf⟩ := pumpContinue_cases (rfl : pumpContinue s = _)
  · exact ⟨_, hr⟩
  · exact ⟨_, hr⟩
  · obtain ⟨-, hr⟩ | ⟨p, -, -, hr⟩ | ⟨p, -, -, -, hr⟩ | ⟨p, -, -, -, hr⟩ := fireEvent_cases hf
    · cases hr
    · exact ⟨_, Except.error.inj hr⟩
    · exact ⟨_, Except.error.inj hr⟩
    · cases hr

theorem schedule_advances (delay : Word64) (period : Option Word64) (tag : Word32) (s : State) :
    Advances (schedule delay period tag s) := by
  obtain ⟨-, hr⟩ | ⟨-, ⟨-, hr⟩ | ⟨-, ⟨-, hr⟩ | ⟨-, -, hr⟩ | ⟨-, -, hr⟩⟩⟩ :=
    schedule_cases (rfl : schedule delay period tag s = _) <;> exact ⟨_, hr⟩

theorem execSchedPeriodic_advances {s : State} (hs : s.halted = false) (period : Word64) (tag : Word32) :
    Advances (execSchedPeriodic period tag s) := by
  refine advances_inPhase hs fun _ => ?_
  split_ifs
  · exact advances_raiseFault _ _
  · exact schedule_advances _ _ _ _

theorem execStep_advances {s : State} (hs : s.halted = false) (c : Word64) : Advances (execStep c s) := by
  refine advances_inPhase hs fun _ => ?_
  split_ifs
  · exact advances_raiseFault _ _
  · exact advances_raiseFault _ _
  · exact pumpContinue_advances _

theorem resume_advances {s : State} (h : Inv s) {k : Cont} (hk : s.cont = some k) (d : Byte) :
    Advances (resume k d (endInvocation s)) := by
  have hports : PortsLegal (endInvocation s) := PortsLegal.transfer h.ports rfl rfl (.of_eq rfl)
  have hlegal := h.contLegal k hk
  unfold resume
  split
  · exact advances_next _
  · exact advances_next _
  · exact portWrite_advances (s := endInvocation s) h.params hports hlegal _ _ _ _
  · exact portRead_advances (s := endInvocation s) h.params hports hlegal _ _ _ _
  · exact pumpContinue_advances _

theorem execHret_advances {s : State} (h : Inv s) (hs : s.halted = false) (d : Byte) : Advances (execHret d s) := by
  refine advances_inPhase hs fun _ => ?_
  split_ifs with hctx
  · exact advances_raiseFault _ _
  · cases hk : s.cont with
    | none => exact absurd (h.ctxTop.2 hk) hctx
    | some k => exact resume_advances h hk d

/-- In a good state outside Failed and Faulted every command has a next state. -/
theorem exec_advances {s : State} (h : Inv s) (hs : s.halted = false) (i : Instr) : Advances (exec i s) := by
  cases i with
  | cfgGeometry => exact execCfgGeometry_advances hs _ _ _ _ _ _
  | cfgBank => exact execCfgBank_advances hs _ _ _
  | cfgPortunit => exact execCfgPortunit_advances hs _ _
  | regRange => exact execRegRange_advances hs _ _ _ _ _ _ _ _
  | regPort => exact execRegPort_advances hs _ _ _ _ _
  | start => exact execStart_advances hs
  | read => exact execRead_advances h hs _ _ _
  | write => exact execWrite_advances h hs _ _ _ _
  | step => exact execStep_advances hs _
  | rcNow => exact advances_inPhase hs fun _ => advances_next _
  | rcScanline => exact rasterQuery_advances h hs _
  | rcHpos => exact rasterQuery_advances h hs _
  | rcHblank => exact rasterQuery_advances h hs _
  | rcVblank => exact rasterQuery_advances h hs _
  | rcCblank => exact rasterQuery_advances h hs _
  | rcLinebit => exact rasterQuery_advances h hs _
  | schedAfter => exact advances_inPhase hs fun _ => schedule_advances _ _ _ _
  | schedPeriodic => exact execSchedPeriodic_advances hs _ _
  | cancel => exact advances_inPhase hs fun _ => advances_next _
  | bankSelect => exact execBankSelect_advances hs _ _
  | bankActive => exact execBankActive_advances hs _
  | hret => exact execHret_advances h hs _

/-! ### The step -/

theorem countCommand_halted (s : State) : (countCommand s).halted = s.halted := by
  rw [State.halted, countCommand_phase, State.halted]

theorem runGroup_advances {s : State} (h : Inv s) (hs : s.halted = false) (hd : Word32) (ws : List Word64) :
    Advances (runGroup hd ws s) := by
  unfold runGroup
  cases decodeGroup hd ws with
  | error e => exact advances_next _
  | ok i => exact exec_advances h.countCommand ((countCommand_halted s).trans hs) i

theorem restoreSnapshot_advances {s : State} (hs : s.halted = false) (img : Snapshot) :
    Advances (restoreSnapshot img s) := by
  refine advances_inPhase hs fun _ => ?_
  split_ifs
  · exact advances_raiseFault _ _
  · exact advances_raiseFault _ _
  · exact advances_next _

theorem serveHost_advances {s : State} (hs : s.halted = false) {i : Input} (hi : isHostOperation i = true)
    (rest : List Input) : Advances (serveHost i rest s) := by
  cases i with
  | save => exact advances_next _
  | restore img => exact restoreSnapshot_advances (s := { s with inbox := rest }) hs img
  | reset => exact advances_next _
  | header => cases hi
  | operand => cases hi

/-- A group is interrupted by a host operation behind it. -/
theorem exists_host_of_interrupted {n : Nat} {inp : List Input} (h : takeOperands n inp = .interrupted) :
    ∃ i ∈ inp, isHostOperation i = true := by
  induction n generalizing inp with
  | zero => cases inp <;> cases h
  | succ n ih =>
    cases inp with
    | nil => cases h
    | cons x xs =>
      cases x with
      | operand w =>
        rw [takeOperands] at h
        split at h
        · cases h
        · cases h
        · rename_i hi
          obtain ⟨i, hi, hop⟩ := ih hi
          exact ⟨i, List.mem_cons_of_mem _ hi, hop⟩
        · cases h
      | header => cases h
      | save => exact ⟨.save, by simp, rfl⟩
      | restore img => exact ⟨.restore img, by simp, rfl⟩
      | reset => exact ⟨.reset, by simp, rfl⟩

theorem takePast_isSome {serve : Input → Bool} {inp : List Input} (h : ∃ i ∈ inp, serve i = true) :
    ∃ j rest, takePast serve inp = some (j, rest) ∧ serve j = true := by
  cases ht : takePast serve inp with
  | some p =>
    obtain ⟨j, rest⟩ := p
    obtain ⟨-, -, -, hj, -⟩ := takePast_some ht
    exact ⟨j, rest, rfl, hj⟩
  | none =>
    exfalso
    obtain ⟨i, hi, hs⟩ := h
    induction inp with
    | nil => cases hi
    | cons x xs ih =>
      rw [takePast] at ht
      split_ifs at ht with hx
      split at ht
      · rename_i hnone
        obtain rfl | hi := List.mem_cons.1 hi
        · exact hx hs
        · exact ih hnone hi
      · cases ht

/-- Settles O56: a whole group runs a command or faults, a half group waits or is interrupted by a host operation,
and host operations are served. -/
theorem progress : Obligations.Progress := by
  intro s h hs hframed
  have hrun (rest : List Input) (hd : Word32) (ws : List Word64) := runGroup_advances (h.withInbox rest) hs hd ws
  unfold step
  rw [if_neg (by simp [hs])]
  cases hin : s.inbox with
  | nil => exact ⟨_, rfl⟩
  | cons x rest =>
    rw [hin] at hframed
    cases x with
    | header hd =>
      dsimp only
      cases ht : takeOperands (operandCount hd) rest with
      | words ws rest' => exact hrun rest' hd ws
      | waiting => exact ⟨_, rfl⟩
      | interrupted =>
        obtain ⟨i, hi, hop⟩ := exists_host_of_interrupted ht
        obtain ⟨j, rest', hj, hserve⟩ := takePast_isSome (inp := s.inbox) ⟨i, by simp [hin, hi], hop⟩
        simp only [servePast, hj]
        exact serveHost_advances hs hserve rest'
      | misframed => exact absurd ht hframed
    | operand w => exact hframed.elim
    | save => exact serveHost_advances hs rfl rest
    | restore img => exact serveHost_advances hs rfl rest
    | reset => exact serveHost_advances hs rfl rest

end Sys2Proof.Machine

/-! ## Reachable states, illegal groups and the status outputs -/

namespace Sys2Proof.Machine

/-- Settles O6: the words are taken, and the decoder's refusal raises F_ILLEGAL before the command is counted. -/
theorem stepFaultsOnIllegalGroup : Obligations.StepFaultsOnIllegalGroup := by
  intro s h ws rest e hin hlen hd hs
  have hin : s.inbox = .header h :: (ws.map .operand ++ rest) := hin
  have htake : takeOperands (operandCount h) (ws.map .operand ++ rest) = .words ws rest :=
    hlen ▸ takeOperands_map ws rest
  simp only [step, hs, hin, htake, runGroup, hd]
  rfl

/-- An event with its defer bit cleared is due once its deadline has come (44_scheduler.md R251). -/
theorem mem_dueEvents_pumpStart {s : State} {e : Event} (he : e ∈ s.queue)
    (hdue : e.deadline.toNat ≤ s.elapsed.toNat) : { e with defer := false } ∈ dueEvents (pumpStart s) :=
  List.mem_filter.2 ⟨List.mem_map.2 ⟨e, he, rfl⟩, decide_eq_true hdue⟩

/-- Settles O55: a reachable state is good, and the seven items are parts of the invariant; item 6 holds of any two
times. -/
theorem reachableInvariants : Obligations.ReachableInvariants := by
  intro s hr
  have h := hr.inv
  have hq := h.queueLegal
  refine ⟨fun hp => ?_, fun sp d e he => ⟨(h.ranges sp d e he).ordered, (h.ranges sp d e he).fold⟩,
    fun sp d j k e e' a hj hk hjk ha ha' => ?_, fun b k hk => (h.banks b k hk).selected,
    ⟨hq.ids, fun e he => ⟨hq.idPos e he, fun hne => hq.idBelow.resolve_left hne e he⟩⟩, fun _ e he => ?_, h.ctxTop⟩
  · obtain ⟨g, hg⟩ := Option.isSome_iff_exists.1 (h.geoSet hp)
    exact ⟨g, hg, h.geoLegal g hg⟩
  · obtain ⟨hjl, rfl⟩ := List.getElem?_eq_some_iff.1 hj
    obtain ⟨hkl, rfl⟩ := List.getElem?_eq_some_iff.1 hk
    exact List.pairwise_iff_getElem.1 (h.overrides sp d) j k hjl hkl hjk a ha ha'
  · exact (le_total s.elapsed.toNat e.deadline.toNat).imp_right (mem_dueEvents_pumpStart he)

/-! ### Status outputs -/

theorem scanlineAt_lt {g : Geometry} (hg : g.Legal) (t : Nat) : scanlineAt g t < g.lpf.toNat :=
  Nat.mod_lt _ hg.2.1

theorem hposAt_lt {g : Geometry} (hg : g.Legal) (t : Nat) : hposAt g t < g.cpl.toNat :=
  Nat.mod_lt _ hg.1

/-- A raster query in phase Run responds its function of the geometry (43_raster.md R227). -/
theorem rasterQuery_of_run {s : State} {g : Geometry} (hp : s.phase = .run) (hg : s.geo = some g)
    (f : Geometry → Word64) : rasterQuery s f = .next (respond (f g) s) := by
  rw [rasterQuery, inPhase_of_mem (halted_of_run hp) (by simp [hp]), hg]

/-- A position below a 32-bit bound is a status output and a response alike. -/
theorem setWidth_ofNat_of_lt {x : Nat} {b : Word32} (h : x < b.toNat) :
    (BitVec.ofNat 32 x).toNat = x ∧ (BitVec.ofNat 32 x).setWidth 64 = BitVec.ofNat 64 x := by
  have hx : x < 2 ^ 32 := lt_trans h b.isLt
  refine ⟨(BitVec.toNat_ofNat x 32).trans (Nat.mod_eq_of_lt hx), BitVec.eq_of_toNat_eq ?_⟩
  rw [BitVec.toNat_setWidth, BitVec.toNat_ofNat, BitVec.toNat_ofNat, Nat.mod_eq_of_lt hx]

theorem statusOutputs_of_not_run {s : State} (hp : s.phase ≠ .run) : statusOutputs s = none := by
  unfold statusOutputs
  split
  · contradiction
  · rfl

theorem statusOutputs_of_run {s : State} {g : Geometry} (hp : s.phase = .run) (hg : s.geo = some g) :
    statusOutputs s = some
      { scanline := BitVec.ofNat 32 (scanlineAt g s.elapsed.toNat)
        hpos := BitVec.ofNat 32 (hposAt g s.elapsed.toNat)
        hblank := isHblank g s.elapsed.toNat
        vblank := isVblank g s.elapsed.toNat
        cblank := isCblank g s.elapsed.toNat } := by
  simp only [statusOutputs, hp, hg]

end Sys2Proof.Machine

namespace Sys2Proof

open Machine in
/-- Settles O35: the outputs and the queries at NOW are the same functions of `st.elapsed`, and the two positions fit
their 32 bits under a legal geometry. -/
theorem statusOutputs : Obligations.StatusOutputs := by
  intro s
  refine ⟨statusOutputs_of_not_run, fun g hp hg hlegal => ?_⟩
  obtain ⟨hline, hline64⟩ := setWidth_ofNat_of_lt (scanlineAt_lt hlegal s.elapsed.toNat)
  obtain ⟨hpos, hpos64⟩ := setWidth_ofNat_of_lt (hposAt_lt hlegal s.elapsed.toNat)
  have hquery := rasterQuery_of_run hp hg
  refine ⟨_, statusOutputs_of_run hp hg, hline, hpos, rfl, rfl, rfl, ?_, ?_, hquery _, hquery _, hquery _⟩
  · rw [hline64]
    exact hquery _
  · rw [hpos64]
    exact hquery _

end Sys2Proof

namespace Sys2Proof.Machine

/-! ### Ids -/

/-- e comes from the queue q: an event with its id, tag and period is there. -/
def ComesFrom (q : List Event) (e : Event) : Prop :=
  ∃ e' ∈ q, e'.id = e.id ∧ e'.tag = e.tag ∧ e'.period = e.period

theorem comesFrom_of_mem {q : List Event} {e : Event} (h : e ∈ q) : ComesFrom q e :=
  ⟨e, h, rfl, rfl, rfl⟩

/-- The pump brings no event into the queue. -/
theorem PumpEffect.comesFrom {s t : State} (h : PumpEffect s t) {e : Event} (he : e ∈ t.queue) :
    ComesFrom s.queue e := by
  cases h with
  | ends => exact comesFrom_of_mem he
  | oneShot => exact comesFrom_of_mem (List.mem_of_mem_filter he)
  | rearm hd =>
    have hmem := (pickDue_mem hd).1
    obtain rfl | he := mem_putEvent he
    · exact ⟨_, hmem, rfl, rfl, rfl⟩
    · obtain rfl | he := mem_putEvent he
      · exact ⟨_, hmem, rfl, rfl, rfl⟩
      · exact comesFrom_of_mem he
  | overflow => exact comesFrom_of_mem (by simpa using he)
  | seqSpent hd =>
    obtain rfl | he := mem_putEvent he
    · exact ⟨_, (pickDue_mem hd).1, rfl, rfl, rfl⟩
    · exact comesFrom_of_mem he

theorem ReadEffect.queue_eq {U : Word16 → Prop} {s t : State} (h : ReadEffect U s t) : t.queue = s.queue := by
  cases h <;> simp

theorem WriteEffect.queue_eq {U : Word16 → Prop} {s t : State} (h : WriteEffect U s t) : t.queue = s.queue := by
  cases h with
  | done sp v hs => rw [finishWrite_queue, hs.eq_withBanks]
  | invoke hid o v k hs => rw [invoke_queue, hs.eq_withBanks]
  | fault c hs => rw [faultState_queue, hs.eq_withBanks]

theorem SelectStep.queue_eq {s t : State} (h : SelectStep s t) : t.queue = s.queue := by
  rw [Selects.eq_withBanks (.single h)]

/-- Settles O44: only the two SCHED commands put a new event into the queue, and its id is the counter's. -/
theorem idsComeFromTheCounter : Obligations.IdsComeFromTheCounter := by
  intro i s t hexec e he
  have kept (hq : t.queue = s.queue) : ComesFrom s.queue e := comesFrom_of_mem (hq ▸ he)
  cases exec_effect hexec with
  | fault | configError | cfgGeometry | cfgBank | cfgPortunit | regPort | start | answer | scheduleSpent
  | readUnmapped | writeUnmapped | writeCell => exact .inl (kept (by simp))
  | regRange => exact .inl (kept (by rw [addDirs_eq]))
  | read _ _ _ _ h => exact .inl (kept h.queue_eq)
  | write _ _ _ _ _ h => exact .inl (kept h.queue_eq)
  | bankSelect _ _ h => exact .inl (kept h.queue_eq)
  | hretRead _ _ _ _ h => exact .inl (kept h.queue_eq)
  | hretWrite _ _ _ _ h => exact .inl (kept h.queue_eq)
  | cancel => exact .inl (comesFrom_of_mem (List.mem_of_mem_filter he))
  | hretPump _ _ _ h => exact .inl (h.comesFrom he)
  | step _ _ _ _ h =>
    obtain ⟨e', he', hsame⟩ := h.comesFrom he
    obtain ⟨e'', he'', rfl⟩ := List.mem_map.1 he'
    exact .inl ⟨e'', he'', hsame⟩
  | schedule _ _ _ hi _ _ _ hid =>
    obtain rfl | he := mem_putEvent he
    · exact .inr ⟨by simpa using hi, rfl, hid, rfl, rfl⟩
    · exact .inl (comesFrom_of_mem he)

end Sys2Proof.Machine

/-! ## What each command writes

`Frame c s t` is the column "written by" of 10_state.md R48 for a step of opcode c from s to t. Its fields default to
"unchanged", so that a lemma names only the fields its update writes. -/

namespace Sys2Proof.Machine

/-- Slots keep their N and S, only bank selects move a selector, and only CFG_BANK makes a slot. -/
def BanksFrame (c : Opcode) (s t : State) : Prop :=
  (∀ b k, bankAt s b = some k → ∃ k', bankAt t b = some k' ∧ k'.n = k.n ∧ k'.size = k.size ∧
    (k'.sel ≠ k.sel → c ∈ [.bankSelect, .write, .hret])) ∧
  ∀ b, bankAt s b = none → bankAt t b ≠ none → c = .cfgBank

theorem BanksFrame.of_eq {c : Opcode} {s t : State} (h : t.banks = s.banks) : BanksFrame c s t := by
  have hat (b : Nat) : bankAt t b = bankAt s b := by rw [bankAt, h, bankAt]
  exact ⟨fun b k hk => ⟨k, (hat b).trans hk, rfl, rfl, fun hne => absurd rfl hne⟩,
    fun b hs ht => absurd ((hat b).trans hs) ht⟩

/-- What a step of opcode c may change. -/
structure Frame (c : Opcode) (s t : State) : Prop where
  params : t.params = s.params := by simp
  inbox : t.inbox = s.inbox := by simp
  saves : t.saves = s.saves := by simp
  cmdCount : t.cmdCount = s.cmdCount := by simp
  responses : s.responses <+: t.responses := by simp
  trace : s.trace <+: t.trace := by simp
  elapsed : t.elapsed ≠ s.elapsed → c = .step := by simp
  geo : t.geo ≠ s.geo → c = .cfgGeometry := by simp
  ranges : t.ranges ≠ s.ranges → c = .regRange := by simp
  ports : t.ports ≠ s.ports → c = .regPort := by simp
  policy : t.policy ≠ s.policy → c = .cfgPortunit := by simp
  banks : BanksFrame c s t := by exact .of_eq (by simp)
  cells : ∀ b j off, t.cell b j off ≠ s.cell b j off → c ∈ [.write, .cfgBank] := by simp [State.cell]
  queue : t.queue ≠ s.queue → c ∈ [.schedAfter, .schedPeriodic, .cancel, .step, .hret] := by simp
  nextId : t.nextId ≠ s.nextId → c ∈ [.schedAfter, .schedPeriodic] := by simp
  nextSeq : t.nextSeq ≠ s.nextSeq → c ∈ [.schedAfter, .schedPeriodic, .step, .hret] := by simp
  busLatch : t.busLatch ≠ s.busLatch → c ∈ [.read, .write, .hret] := by simp
  ctx : t.ctx ≠ s.ctx → c ∈ [.read, .write, .step, .hret] := by simp
  cont : t.cont ≠ s.cont → c ∈ [.read, .write, .step, .hret] := by simp
  pumping : t.pumping ≠ s.pumping → c ∈ [.step, .hret] := by simp
  cfgError : t.cfgError ≠ s.cfgError → t.phase = .failed := by simp
  fault : t.fault ≠ s.fault → t.phase = .faulted := by simp
  phase : t.phase ≠ s.phase → (c = .start ∧ t.phase = .run) ∨ t.phase = .failed ∨ t.phase = .faulted := by simp

theorem ne_imp_trans {α : Type} {a b c : α} {P : Prop} (h1 : b ≠ a → P) (h2 : c ≠ b → P) : c ≠ a → P := by
  intro h
  by_cases hb : b = a
  · exact h2 (hb ▸ h)
  · exact h1 hb

theorem BanksFrame.trans {c : Opcode} {s u t : State} (h1 : BanksFrame c s u) (h2 : BanksFrame c u t) :
    BanksFrame c s t := by
  refine ⟨fun b k hk => ?_, fun b hs ht => ?_⟩
  · obtain ⟨k1, hk1, hn1, hz1, hsel1⟩ := h1.1 b k hk
    obtain ⟨k2, hk2, hn2, hz2, hsel2⟩ := h2.1 b k1 hk1
    exact ⟨k2, hk2, hn2.trans hn1, hz2.trans hz1, ne_imp_trans hsel1 hsel2⟩
  · by_cases hu : bankAt u b = none
    · exact h2.2 b hu ht
    · exact h1.2 b hs hu

/-- Two updates after one another, the first of which raises no error and starts nothing. -/
theorem Frame.trans {c : Opcode} {s u t : State} (h1 : Frame c s u) (h2 : Frame c u t)
    (hphase : u.phase = s.phase := by simp) (hcfg : u.cfgError = s.cfgError := by simp)
    (hfault : u.fault = s.fault := by simp) : Frame c s t where
  params := h2.params.trans h1.params
  inbox := h2.inbox.trans h1.inbox
  saves := h2.saves.trans h1.saves
  cmdCount := h2.cmdCount.trans h1.cmdCount
  responses := h1.responses.trans h2.responses
  trace := h1.trace.trans h2.trace
  elapsed := ne_imp_trans h1.elapsed h2.elapsed
  geo := ne_imp_trans h1.geo h2.geo
  ranges := ne_imp_trans h1.ranges h2.ranges
  ports := ne_imp_trans h1.ports h2.ports
  policy := ne_imp_trans h1.policy h2.policy
  banks := h1.banks.trans h2.banks
  cells b j off := ne_imp_trans (h1.cells b j off) (h2.cells b j off)
  queue := ne_imp_trans h1.queue h2.queue
  nextId := ne_imp_trans h1.nextId h2.nextId
  nextSeq := ne_imp_trans h1.nextSeq h2.nextSeq
  busLatch := ne_imp_trans h1.busLatch h2.busLatch
  ctx := ne_imp_trans h1.ctx h2.ctx
  cont := ne_imp_trans h1.cont h2.cont
  pumping := ne_imp_trans h1.pumping h2.pumping
  cfgError := hcfg ▸ h2.cfgError
  fault := hfault ▸ h2.fault
  phase := hphase ▸ h2.phase

section
variable {c : Opcode} {s t : State}

theorem SelectStep.frame (h : SelectStep s t) (hc : c ∈ [.bankSelect, .write, .hret]) : Frame c s t := by
  obtain rfl | ⟨b, k, y, hk, -, rfl⟩ := h.cases
  · exact {}
  · refine { banks := ⟨fun b' k' hk' => ?_, fun b' hs ht => ?_⟩ }
    · rw [bankAt_setBank (bankAt_lt hk)]
      split_ifs with hb
      · subst hb
        obtain rfl := Option.some.inj (hk.symm.trans hk')
        exact ⟨_, rfl, rfl, rfl, fun _ => hc⟩
      · exact ⟨k', hk', rfl, rfl, fun _ => hc⟩
    · rw [bankAt_setBank (bankAt_lt hk)] at ht
      split_ifs at ht with hb
      · rw [hb, hk] at hs
        cases hs
      · exact absurd hs ht

theorem Selects.frame (h : Selects s t) (hc : c ∈ [.bankSelect, .write, .hret]) : Frame c s t := by
  induction h with
  | refl => exact {}
  | tail hs hstep ih =>
    have heq := Selects.eq_withBanks hs
    exact ih.trans (hstep.frame hc) (by rw [heq]) (by rw [heq]) (by rw [heq])

theorem ReadEffect.frame {U : Word16 → Prop} (h : ReadEffect U s t) (hc : c = .read ∨ c = .hret) : Frame c s t := by
  have hbus : c ∈ [.read, .write, .hret] := by obtain rfl | rfl := hc <;> simp
  have hctx : c ∈ [.read, .write, .step, .hret] := by obtain rfl | rfl := hc <;> simp
  cases h with
  | done sp v => exact { busLatch := fun _ => hbus }
  | openBus sp => exact { busLatch := fun _ => hbus, responses := by simp [finishOpenBus] }
  | invoke => exact { ctx := fun _ => hctx, cont := fun _ => hctx }
  | fault => exact {}

theorem WriteEffect.frame {U : Word16 → Prop} (h : WriteEffect U s t) (hc : c = .write ∨ c = .hret) :
    Frame c s t := by
  have hbus : c ∈ [.read, .write, .hret] := by obtain rfl | rfl := hc <;> simp
  have hctx : c ∈ [.read, .write, .step, .hret] := by obtain rfl | rfl := hc <;> simp
  have hsel : c ∈ [.bankSelect, .write, .hret] := by obtain rfl | rfl := hc <;> simp
  have after {s' : State} (hs : Selects s s') (h : Frame c s' t) : Frame c s t := by
    have heq := hs.eq_withBanks
    exact (hs.frame hsel).trans h (by rw [heq]) (by rw [heq]) (by rw [heq])
  cases h with
  | done sp v hs => exact after hs { busLatch := fun _ => hbus }
  | invoke hid o v k hs => exact after hs { ctx := fun _ => hctx, cont := fun _ => hctx }
  | fault c hs => exact after hs {}

theorem PumpEffect.frame (h : PumpEffect s t) (hc : c = .step ∨ c = .hret) : Frame c s t := by
  have hqueue : c ∈ [.schedAfter, .schedPeriodic, .cancel, .step, .hret] := by obtain rfl | rfl := hc <;> simp
  have hseq : c ∈ [.schedAfter, .schedPeriodic, .step, .hret] := by obtain rfl | rfl := hc <;> simp
  have hctx : c ∈ [.read, .write, .step, .hret] := by obtain rfl | rfl := hc <;> simp
  have hpump : c ∈ [.step, .hret] := by obtain rfl | rfl := hc <;> simp
  cases h with
  | ends => exact { pumping := fun _ => hpump }
  | oneShot => exact { queue := fun _ => hqueue, ctx := fun _ => hctx, cont := fun _ => hctx }
  | rearm =>
    exact { queue := fun _ => hqueue, nextSeq := fun _ => hseq, ctx := fun _ => hctx, cont := fun _ => hctx }
  | overflow => exact {}
  | seqSpent => exact { queue := fun _ => hqueue }

theorem createBank_frame {b : Sel} {n : Word16} {size : Word32} (hfree : bankAt s b.toNat = none) :
    Frame .cfgBank s (createBank b n size s) where
  banks := by
    refine ⟨fun b' k hk => ⟨k, ?_, rfl, rfl, fun hne => absurd rfl hne⟩, fun _ _ _ => rfl⟩
    rw [bankAt_createBank, if_neg, hk]
    rintro rfl
    rw [hfree] at hk
    cases hk
  cells _ _ _ _ := by simp

theorem endInvocation_frame : Frame .hret s (endInvocation s) where
  ctx _ := by simp
  cont _ := by simp

theorem Effect.frame {i : Instr} (h : Effect i s t) : Frame i.opcode s t := by
  cases h with
  | fault => exact {}
  | configError => exact {}
  | cfgGeometry => exact { geo := fun _ => rfl }
  | cfgBank b n size _ _ hfree => exact createBank_frame hfree
  | cfgPortunit => exact { policy := fun _ => rfl }
  | regRange =>
    rw [addDirs_eq]
    exact { ranges := fun _ => rfl }
  | regPort => exact { ports := fun _ => rfl }
  | start => exact { phase := fun _ => .inl ⟨rfl, rfl⟩ }
  | answer => exact {}
  | read sp wid a ha h => exact h.frame (.inl rfl)
  | readUnmapped sp wid a =>
    have hemit : Frame .read s (emit (.unmapped sp .r a) s) := {}
    exact hemit.trans ((ReadEffect.openBus (U := fun _ => False) sp).frame (.inl rfl))
  | write sp wid v a ha h => exact h.frame (.inl rfl)
  | writeUnmapped sp wid v a =>
    have hemit : Frame .write s (emit (.unmapped sp .w a) s) := {}
    exact hemit.trans ((WriteEffect.done (U := fun _ => False) sp v .refl).frame (.inl rfl))
  | writeCell => exact { cells := fun _ _ _ _ => by simp [Instr.opcode], busLatch := fun _ => by simp [Instr.opcode] }
  | step c _ _ _ h =>
    have hstart : Frame .step s (pumpStart { s with elapsed := s.elapsed + c }) :=
      { elapsed := fun _ => rfl, queue := fun _ => by simp, pumping := fun _ => by simp }
    exact hstart.trans (h.frame (.inl rfl))
  | schedule delay period tag hi =>
    have hop : i.opcode = .schedAfter ∨ i.opcode = .schedPeriodic := by simpa using hi
    exact
      { nextId := fun _ => hi
        nextSeq := fun _ => by obtain h | h := hop <;> simp [h]
        queue := fun _ => by obtain h | h := hop <;> simp [h] }
  | scheduleSpent _ hi => exact { nextId := fun _ => hi }
  | cancel => exact { queue := fun _ => by simp [Instr.opcode] }
  | bankSelect b x h => exact h.frame (by simp [Instr.opcode])
  | hretRead d _ _ _ h => exact endInvocation_frame.trans (h.frame (.inr rfl))
  | hretWrite d _ _ _ h => exact endInvocation_frame.trans (h.frame (.inr rfl))
  | hretPump d _ _ h => exact endInvocation_frame.trans (h.frame (.inr rfl))

end

/-- Settles O57: every effect of a command stays within its frame. -/
theorem writtenBy : Obligations.WrittenBy := by
  intro i s t h
  have f := (exec_effect h).frame
  exact ⟨f.params, f.inbox, f.saves, f.cmdCount, f.responses, f.trace, f.elapsed, f.geo, f.ranges, f.ports, f.policy,
    f.banks.1, f.banks.2, f.cells, f.queue, f.nextId, f.nextSeq, f.busLatch, fun h => h.elim f.ctx f.cont, f.pumping,
    f.cfgError, f.fault, f.phase⟩

end Sys2Proof.Machine

/-! ## The trace is never read

A state with other records before its trace does what the state does, and appends the same records: every meaning
commutes with putting records before the trace (10_state.md R45). -/

namespace Sys2Proof.Machine

/-- The state with the records tr before those of its trace. -/
def behind (tr : List TraceRec) (s : State) : State :=
  { s with trace := tr ++ s.trace }

/-- Apply f to a next state. -/
def onNext (f : State → State) : Result → Result
  | .next s => .next (f s)
  | .fault r => .fault r
  | .refused r => .refused r

@[simp] theorem onNext_next (f : State → State) (s : State) : onNext f (.next s) = .next (f s) := rfl
@[simp] theorem onNext_fault (f : State → State) (r : Fault) : onNext f (.fault r) = .fault r := rfl

theorem onNext_ite (f : State → State) (p : Prop) [Decidable p] (a b : Result) :
    onNext f (if p then a else b) = if p then onNext f a else onNext f b :=
  apply_ite ..

section
variable (tr : List TraceRec) (s : State)

/-! ### What does not see the trace -/

@[simp] theorem behind_params : (behind tr s).params = s.params := rfl
@[simp] theorem behind_elapsed : (behind tr s).elapsed = s.elapsed := rfl
@[simp] theorem behind_geo : (behind tr s).geo = s.geo := rfl
@[simp] theorem behind_ports : (behind tr s).ports = s.ports := rfl
@[simp] theorem behind_queue : (behind tr s).queue = s.queue := rfl
@[simp] theorem behind_nextId : (behind tr s).nextId = s.nextId := rfl
@[simp] theorem behind_nextSeq : (behind tr s).nextSeq = s.nextSeq := rfl
@[simp] theorem behind_cont : (behind tr s).cont = s.cont := rfl
@[simp] theorem behind_phase : (behind tr s).phase = s.phase := rfl
@[simp] theorem behind_ctx : (behind tr s).ctx = s.ctx := rfl
@[simp] theorem behind_halted : (behind tr s).halted = s.halted := rfl
@[simp] theorem bankAt_behind (b : Nat) : bankAt (behind tr s) b = bankAt s b := rfl
@[simp] theorem namedBank_behind (b : Sel) : namedBank (behind tr s) b = namedBank s b := rfl
@[simp] theorem cell_behind (b : Nat) (i : Word16) (off : Word32) : (behind tr s).cell b i off = s.cell b i off := rfl
@[simp] theorem spaceAw_behind (sp : Sel) : spaceAw (behind tr s) sp = spaceAw s sp := rfl
@[simp] theorem lookup_behind (sp : Sel) (d : Dir) (a : Word32) : lookup (behind tr s) sp d a = lookup s sp d a := rfl
@[simp] theorem portList_behind (u : Nat) : portList (behind tr s) u = portList s u := rfl
@[simp] theorem unitPolicy_behind (u : Nat) : unitPolicy (behind tr s) u = unitPolicy s u := rfl
@[simp] theorem newRange_behind (sp : Sel) (ovr : Bool) (tk : TKind) (lo hi mask : Word32) (tid : Word16) :
    newRange (behind tr s) sp ovr tk lo hi mask tid = newRange s sp ovr tk lo hi mask tid := rfl
@[simp] theorem targetOk_behind (tk : TKind) (tid : Word16) (dm : DirSet) (size : Nat) :
    targetOk (behind tr s) tk tid dm size = targetOk s tk tid dm size := rfl
@[simp] theorem portTargetOk_behind (tk : TKind) (tid : Word16) (d : Dir) :
    portTargetOk (behind tr s) tk tid d = portTargetOk s tk tid d := rfl
@[simp] theorem fullTable_behind (sp : Sel) (dm : DirSet) : fullTable (behind tr s) sp dm = fullTable s sp dm := rfl
@[simp] theorem firstConflict_behind (sp : Sel) (e : RangeEntry) (dm : DirSet) :
    firstConflict (behind tr s) sp e dm = firstConflict s sp e dm := rfl
@[simp] theorem pickDue_behind : pickDue (behind tr s) = pickDue s := rfl

/-! ### Updates -/

@[simp] theorem emit_behind (r : TraceRec) : emit r (behind tr s) = behind tr (emit r s) := by
  simp [emit, behind]

@[simp] theorem respond_behind (v : Word64) : respond v (behind tr s) = behind tr (respond v s) := rfl

@[simp] theorem invoke_behind (r : TraceRec) (c : Ctx) (k : Cont) :
    invoke r c k (behind tr s) = behind tr (invoke r c k s) := by
  simp [invoke, emit, behind]

@[simp] theorem endInvocation_behind : endInvocation (behind tr s) = behind tr (endInvocation s) := rfl

@[simp] theorem driveBus_behind (sp : Sel) (v : Byte) : driveBus sp v (behind tr s) = behind tr (driveBus sp v s) := by
  rw [driveBus, driveBus, behind_params]
  cases s.params.openBus <;> rfl

@[simp] theorem finishRead_behind (sp : Sel) (v : Byte) :
    finishRead sp v (behind tr s) = behind tr (finishRead sp v s) := by
  simp [finishRead]

@[simp] theorem finishWrite_behind (sp : Sel) (v : Byte) :
    finishWrite sp v (behind tr s) = behind tr (finishWrite sp v s) := by
  simp [finishWrite]

@[simp] theorem openBus_behind (sp : Sel) :
    openBus sp (behind tr s) = ((openBus sp s).1, behind tr (openBus sp s).2) := by
  rw [openBus, openBus, behind_params]
  cases s.params.openBus <;> rfl

@[simp] theorem finishOpenBus_behind (sp : Sel) : finishOpenBus sp (behind tr s) = behind tr (finishOpenBus sp s) := by
  simp [finishOpenBus]

@[simp] theorem addDirs_behind (sp : Sel) (e : RangeEntry) (dm : DirSet) :
    dm.dirs.foldl (addRange sp e) (behind tr s) = behind tr (dm.dirs.foldl (addRange sp e) s) := by
  cases dm <;> rfl

@[simp] theorem afterPick_behind : afterPick (behind tr s) = behind tr (afterPick s) := by
  rw [afterPick, afterPick, behind_params]
  cases s.params.tieOrder <;> rfl

/-! ### Errors -/

@[simp] theorem currentIndex_behind : currentIndex (behind tr s) = currentIndex s := rfl

@[simp] theorem raiseFault_behind (c : FaultCode) :
    raiseFault c (behind tr s) = onNext (behind tr) (raiseFault c s) := by
  rw [raiseFault, currentIndex_behind]
  simp [raiseFault, faultState, emit, behind]

@[simp] theorem raiseConfig_behind (k : CfgKind) (info : List InfoItem) :
    raiseConfig k info (behind tr s) = onNext (behind tr) (raiseConfig k info s) := by
  rw [raiseConfig, configErrorState, currentIndex_behind]
  simp [raiseConfig, configErrorState, emit, behind]

theorem inPhase_behind {ps : List Phase} {body body' : Result} (h : body' = onNext (behind tr) body) :
    inPhase ps (behind tr s) body' = onNext (behind tr) (inPhase ps s body) := by
  simp only [inPhase, onNext_ite, behind_halted, behind_phase, raiseFault_behind, onNext_fault, h]

/-! ### Registration and queries -/

theorem execCfgGeometry_behind (cpl lpf hbs hbe vbs vbe : Word32) :
    execCfgGeometry cpl lpf hbs hbe vbs vbe (behind tr s) =
      onNext (behind tr) (execCfgGeometry cpl lpf hbs hbe vbs vbe s) := by
  refine inPhase_behind tr s ?_
  simp only [onNext_ite, raiseConfig_behind, onNext_next]
  rfl

theorem execCfgBank_behind (b : Sel) (n : Word16) (size : Word32) :
    execCfgBank b n size (behind tr s) = onNext (behind tr) (execCfgBank b n size s) := by
  refine inPhase_behind tr s ?_
  simp only [onNext_ite, raiseConfig_behind, onNext_next, behind_params, bankAt_behind]
  rfl

theorem execCfgPortunit_behind (u : Sel) (p : Policy) :
    execCfgPortunit u p (behind tr s) = onNext (behind tr) (execCfgPortunit u p s) := by
  refine inPhase_behind tr s ?_
  simp only [onNext_ite, raiseConfig_behind, onNext_next, behind_params]
  rfl

theorem execRegRange_behind (sp : Sel) (dm : DirSet) (ovr : Bool) (tk : TKind) (lo hi mask : Word32) (tid : Word16) :
    execRegRange sp dm ovr tk lo hi mask tid (behind tr s) =
      onNext (behind tr) (execRegRange sp dm ovr tk lo hi mask tid s) := by
  refine inPhase_behind tr s ?_
  simp only [onNext_ite, raiseConfig_behind, behind_params, spaceAw_behind, newRange_behind, targetOk_behind,
    fullTable_behind, firstConflict_behind, addDirs_behind]
  generalize (if ovr = true then none else firstConflict s sp _ dm) = conflict
  cases fullTable s sp dm <;> cases conflict <;> rfl

theorem execRegPort_behind (u : Sel) (dm : DirSet) (tk : TKind) (bitmask : Word32) (tid : Word16) :
    execRegPort u dm tk bitmask tid (behind tr s) = onNext (behind tr) (execRegPort u dm tk bitmask tid s) := by
  refine inPhase_behind tr s ?_
  simp only [onNext_ite, raiseConfig_behind, onNext_next, behind_params, behind_ports, portTargetOk_behind]
  rfl

theorem execStart_behind : execStart (behind tr s) = onNext (behind tr) (execStart s) := by
  refine inPhase_behind tr s ?_
  simp only [onNext_ite, raiseConfig_behind, onNext_next, behind_geo]
  rfl

theorem rasterQuery_behind (f : Geometry → Word64) :
    rasterQuery (behind tr s) f = onNext (behind tr) (rasterQuery s f) := by
  refine inPhase_behind tr s ?_
  rw [behind_geo]
  cases s.geo <;> rfl

theorem execBankActive_behind (b : Sel) : execBankActive b (behind tr s) = onNext (behind tr) (execBankActive b s) := by
  refine inPhase_behind tr s ?_
  rw [namedBank_behind]
  cases namedBank s b
  · exact raiseFault_behind tr s _
  · rfl

/-! ### Banks and ports -/

theorem bankSelect_behind (b : Nat) (x : Word16) :
    bankSelect b x (behind tr s) =
      ((bankSelect b x s).map (behind tr)).mapError (onNext (behind tr)) := by
  simp only [bankSelect, bankAt_behind, behind_params, raiseFault_behind]
  cases bankAt s b with
  | none => rfl
  | some k =>
    dsimp only
    split_ifs
    · rfl
    · cases s.params.bankOor <;> rfl

theorem bufRead_behind (b : Nat) (off : Word32) :
    bufRead b off (behind tr s) = (bufRead b off s).mapError (onNext (behind tr)) := by
  simp only [bufRead, bankAt_behind, cell_behind, raiseFault_behind]
  cases bankAt s b with
  | none => rfl
  | some k =>
    dsimp only
    split_ifs
    · rfl
    · cases s.cell b k.sel off <;> rfl

theorem bufWrite_behind (b : Nat) (off : Word32) (v : Byte) :
    bufWrite b off v (behind tr s) =
      ((bufWrite b off v s).map (behind tr)).mapError (onNext (behind tr)) := by
  simp only [bufWrite, bankAt_behind]
  cases bankAt s b with
  | none => rfl
  | some k =>
    dsimp only
    split_ifs <;> rfl

theorem execBankSelect_behind (b : Sel) (x : Word16) :
    execBankSelect b x (behind tr s) = onNext (behind tr) (execBankSelect b x s) := by
  refine inPhase_behind tr s ?_
  rw [namedBank_behind, bankSelect_behind]
  cases namedBank s b
  · exact raiseFault_behind tr s _
  · cases bankSelect b.toNat x s <;> rfl

theorem dispatchWrite_behind (u : Word16) (o : Word32) (v : Byte) (sp : Sel) (k : Nat) (es : List PortEntry)
    (s : State) :
    dispatchWrite u o v sp k es (behind tr s) = onNext (behind tr) (dispatchWrite u o v sp k es s) := by
  induction es generalizing k s with
  | nil => simp [dispatchWrite]
  | cons e es ih =>
    rw [dispatchWrite, dispatchWrite, onNext_ite, ih, invoke_behind, bankSelect_behind]
    congr 1
    cases e.tkind with
    | banksel =>
      cases bankSelect e.tid.toNat (v.setWidth 16) s with
      | ok s' => exact ih _ s'
      | error r => rfl
    | _ => rfl

theorem dispatchRead_behind (u : Word16) (o : Word32) (sp : Sel) (acc : Option Byte) (k : Nat) (es : List PortEntry) :
    dispatchRead u o sp acc k es (behind tr s) = onNext (behind tr) (dispatchRead u o sp acc k es s) := by
  induction es generalizing k with
  | nil => cases acc <;> simp [dispatchRead]
  | cons e es ih =>
    rw [dispatchRead, dispatchRead, onNext_ite, ih, invoke_behind]
    congr 1
    cases e.tkind <;> rfl

theorem portWrite_behind (u : Word16) (o : Word32) (v : Byte) (sp : Sel) (k : Nat) :
    portWrite u o v sp k (behind tr s) = onNext (behind tr) (portWrite u o v sp k s) := by
  rw [portWrite, portWrite, portList_behind]
  cases portList s u.toNat with
  | none => rfl
  | some es => exact dispatchWrite_behind tr u o v sp k _ s

theorem portRead_behind (u : Word16) (o : Word32) (sp : Sel) (acc : Option Byte) (k : Nat) :
    portRead u o sp acc k (behind tr s) = onNext (behind tr) (portRead u o sp acc k s) := by
  rw [portRead, portRead, portList_behind]
  cases portList s u.toNat with
  | none => rfl
  | some es => exact dispatchRead_behind tr s u o sp acc k _

/-! ### READ and WRITE -/

theorem accessChecks_behind {sp : Sel} {wid : BitVec 2} {a : Word32} {body body' : Result}
    (h : body' = onNext (behind tr) body) :
    accessChecks sp wid a (behind tr s) body' = onNext (behind tr) (accessChecks sp wid a s body) := by
  refine inPhase_behind tr s ?_
  simp only [onNext_ite, raiseFault_behind, behind_ctx, behind_params, spaceAw_behind, h]

theorem readTarget_behind (sp : Sel) (a : Word32) (e : RangeEntry) :
    readTarget sp a e (behind tr s) = onNext (behind tr) (readTarget sp a e s) := by
  rw [readTarget, readTarget, bufRead_behind, portRead_behind, invoke_behind]
  cases e.tkind with
  | bank =>
    cases bufRead e.tid.toNat (rangeOffset a e) s with
    | ok v => exact congrArg _ (finishRead_behind tr s sp v)
    | error r => rfl
  | _ => rfl

theorem writeTarget_behind (sp : Sel) (v : Byte) (a : Word32) (e : RangeEntry) :
    writeTarget sp v a e (behind tr s) = onNext (behind tr) (writeTarget sp v a e s) := by
  rw [writeTarget, writeTarget, bufWrite_behind, portWrite_behind, invoke_behind, bankSelect_behind]
  cases e.tkind with
  | bank =>
    cases bufWrite e.tid.toNat (rangeOffset a e) v s with
    | ok s' => exact congrArg _ (finishWrite_behind tr s' sp v)
    | error r => rfl
  | banksel =>
    cases bankSelect e.tid.toNat (v.setWidth 16) s with
    | ok s' => exact congrArg _ (finishWrite_behind tr s' sp v)
    | error r => rfl
  | _ => rfl

theorem execRead_behind (sp : Sel) (wid : BitVec 2) (a : Word32) :
    execRead sp wid a (behind tr s) = onNext (behind tr) (execRead sp wid a s) := by
  refine accessChecks_behind tr s ?_
  rw [lookup_behind]
  cases lookup s sp .r a with
  | none => simp
  | some e => exact readTarget_behind tr s sp a e

theorem execWrite_behind (sp : Sel) (wid : BitVec 2) (v : Byte) (a : Word32) :
    execWrite sp wid v a (behind tr s) = onNext (behind tr) (execWrite sp wid v a s) := by
  refine accessChecks_behind tr s ?_
  rw [lookup_behind]
  cases lookup s sp .w a with
  | none => simp
  | some e => exact writeTarget_behind tr s sp v a e

/-! ### The scheduler and HRET -/

theorem allocId_behind :
    allocId (behind tr s) = ((allocId s).map fun p => (p.1, behind tr p.2)).mapError (onNext (behind tr)) := by
  simp only [allocId, behind_nextId, raiseFault_behind]
  split_ifs <;> rfl

theorem arm_behind (e : Event) :
    arm e (behind tr s) = ((arm e s).map (behind tr)).mapError (onNext (behind tr)) := by
  simp only [arm, behind_nextSeq, raiseFault_behind]
  split_ifs <;> rfl

theorem schedule_behind (delay : Word64) (period : Option Word64) (tag : Word32) :
    schedule delay period tag (behind tr s) = onNext (behind tr) (schedule delay period tag s) := by
  simp only [schedule, onNext_ite, raiseFault_behind, behind_elapsed, behind_queue, behind_params, allocId_behind]
  congr 2
  cases allocId s with
  | error r => rfl
  | ok p =>
    simp only [Except.map, Except.mapError, arm_behind]
    cases arm _ p.2 <;> rfl

theorem fireEvent_behind (e : Event) :
    fireEvent e (behind tr s) = ((fireEvent e s).map (behind tr)).mapError (onNext (behind tr)) := by
  unfold fireEvent
  cases e.period with
  | none => rfl
  | some p =>
    dsimp only
    split_ifs
    · exact congrArg Except.error (raiseFault_behind tr s _)
    · exact arm_behind tr { s with queue := _ } _

theorem pumpContinue_behind : pumpContinue (behind tr s) = onNext (behind tr) (pumpContinue s) := by
  rw [pumpContinue, pumpContinue, pickDue_behind]
  cases pickDue s with
  | none => rfl
  | some e =>
    dsimp only
    rw [afterPick_behind, fireEvent_behind]
    cases fireEvent e (afterPick s) with
    | ok s' => exact congrArg _ (invoke_behind tr s' _ _ _)
    | error r => rfl

theorem execStep_behind (c : Word64) : execStep c (behind tr s) = onNext (behind tr) (execStep c s) := by
  refine inPhase_behind tr s ?_
  simp only [onNext_ite, raiseFault_behind, behind_ctx, behind_elapsed]
  congr 2
  exact pumpContinue_behind tr (pumpStart { s with elapsed := s.elapsed + c })

theorem execSchedPeriodic_behind (period : Word64) (tag : Word32) :
    execSchedPeriodic period tag (behind tr s) = onNext (behind tr) (execSchedPeriodic period tag s) := by
  refine inPhase_behind tr s ?_
  simp only [onNext_ite, raiseFault_behind, schedule_behind]

theorem resume_behind (k : Cont) (d : Byte) : resume k d (behind tr s) = onNext (behind tr) (resume k d s) := by
  unfold resume
  split
  · exact congrArg _ (finishRead_behind tr s _ _)
  · exact congrArg _ (finishWrite_behind tr s _ _)
  · exact portWrite_behind tr s _ _ _ _ _
  · exact portRead_behind tr s _ _ _ _ _
  · exact pumpContinue_behind tr s

theorem execHret_behind (d : Byte) : execHret d (behind tr s) = onNext (behind tr) (execHret d s) := by
  refine inPhase_behind tr s ?_
  simp only [onNext_ite, raiseFault_behind, behind_ctx, behind_cont, endInvocation_behind]
  cases s.cont with
  | none => rfl
  | some k => exact congrArg _ (resume_behind tr (endInvocation s) k d)

/-- A command does the same behind other records. -/
theorem exec_behind (i : Instr) : exec i (behind tr s) = onNext (behind tr) (exec i s) := by
  cases i with
  | cfgGeometry => exact execCfgGeometry_behind tr s _ _ _ _ _ _
  | cfgBank => exact execCfgBank_behind tr s _ _ _
  | cfgPortunit => exact execCfgPortunit_behind tr s _ _
  | regRange => exact execRegRange_behind tr s _ _ _ _ _ _ _ _
  | regPort => exact execRegPort_behind tr s _ _ _ _ _
  | start => exact execStart_behind tr s
  | read => exact execRead_behind tr s _ _ _
  | write => exact execWrite_behind tr s _ _ _ _
  | step => exact execStep_behind tr s _
  | rcNow => exact inPhase_behind tr s rfl
  | rcScanline => exact rasterQuery_behind tr s _
  | rcHpos => exact rasterQuery_behind tr s _
  | rcHblank => exact rasterQuery_behind tr s _
  | rcVblank => exact rasterQuery_behind tr s _
  | rcCblank => exact rasterQuery_behind tr s _
  | rcLinebit => exact rasterQuery_behind tr s _
  | schedAfter => exact inPhase_behind tr s (schedule_behind tr s _ _ _)
  | schedPeriodic => exact execSchedPeriodic_behind tr s _ _
  | cancel => exact inPhase_behind tr s rfl
  | bankSelect => exact execBankSelect_behind tr s _ _
  | bankActive => exact execBankActive_behind tr s _
  | hret => exact execHret_behind tr s _

end

/-- Settles O60: s and the state with the other trace are both the state with an empty trace, behind other records. -/
theorem traceNeverRead : Obligations.TraceNeverRead := by
  refine ⟨rfl, fun i s t tr h => ?_⟩
  have hbehind (tr' : List TraceRec) : { s with trace := tr' } = behind tr' { s with trace := [] } := by
    rw [behind, List.append_nil]
  have hs : exec i s = onNext (behind s.trace) (exec i { s with trace := [] }) :=
    (congrArg (exec i) (hbehind s.trace)).trans (exec_behind _ _ i)
  rw [hs] at h
  rw [hbehind tr, exec_behind]
  cases h0 : exec i { s with trace := [] } with
  | next t0 =>
    rw [h0] at h
    cases h
    exact ⟨t0.trace, rfl, rfl⟩
  | fault r =>
    rw [h0] at h
    cases h
  | refused r =>
    rw [h0] at h
    cases h

end Sys2Proof.Machine

/-! ## The address map

The mask check, the overlap check and the lookup (20_memory.md R62 to R68) as statements about addresses and table
positions. -/

namespace Sys2Proof.Machine

/-- An address lies in the decoded set of R63: it is in the space, and its canonical address is in the range. -/
theorem covers_iff {aw : Nat} {e : RangeEntry} {a : Word32} :
    covers aw e a = true ↔
      a.toNat < 2 ^ aw ∧ e.lo.toNat ≤ (a &&& e.mask).toNat ∧ (a &&& e.mask).toNat ≤ e.hi.toNat := by
  simp only [covers, Bool.and_eq_true, decide_eq_true_eq, and_assoc]
  rfl

/-- Settles O18: the mask check as R67 states it, and then bit by bit. -/
theorem maskOkIff : Obligations.MaskOkIff := by
  intro lo hi mask
  refine ⟨maskOk_iff lo hi mask, (maskOk_iff lo hi mask).trans ?_⟩
  simp only [and_mask_eq_self_iff]
  exact forall_congr' fun a => ⟨fun h k hlo hhi => h hlo hhi k, fun h hlo hhi k => h k hlo hhi⟩

/-- Settles O19: the overlap check as R68 states it, with the two decoded sets written out as in R63. -/
theorem overlapsIff : Obligations.OverlapsIff := by
  intro aw e1 e2
  rw [overlaps_iff]
  refine exists_congr fun a => ?_
  rw [covers_iff, covers_iff, ← and_and_left]

/-- A search from the back finds the last element with the property. -/
theorem find?_reverse_eq_some_iff {α : Type} {p : α → Bool} {l : List α} {x : α} :
    l.reverse.find? p = some x ↔
      ∃ k : Nat, l[k]? = some x ∧ p x = true ∧ ∀ (j : Nat) (y : α), k < j → l[j]? = some y → p y = false := by
  rw [List.find?_eq_some_iff_append]
  constructor
  · rintro ⟨hx, newer, older, hl, hnewer⟩
    obtain rfl : l = older.reverse ++ x :: newer.reverse := by simpa using congrArg List.reverse hl
    refine ⟨older.length, by simp, hx, fun j y hj hy => ?_⟩
    obtain ⟨i, rfl⟩ := Nat.exists_eq_add_of_lt hj
    have hmem : y ∈ newer := by
      refine List.mem_reverse.1 (List.mem_of_getElem? (i := i) ?_)
      simpa [List.getElem?_append_right, Nat.add_assoc] using hy
    simpa using hnewer y hmem
  · rintro ⟨k, hk, hx, hlast⟩
    obtain ⟨hkl, rfl⟩ := List.getElem?_eq_some_iff.1 hk
    refine ⟨hx, (l.drop (k + 1)).reverse, (l.take k).reverse, ?_, fun y hy => ?_⟩
    · conv_lhs => rw [← List.take_append_drop k l, List.drop_eq_getElem_cons hkl]
      simp
    · obtain ⟨i, hi⟩ := List.mem_iff_getElem?.1 (List.mem_reverse.1 hy)
      rw [List.getElem?_drop] at hi
      simp [hlast _ y (by omega) hi]

/-- No decoded set of the table holds the address (20_memory.md R65). -/
theorem lookup_eq_none_iff {s : State} {sp : Sel} {d : Dir} {a : Word32} :
    lookup s sp d a = none ↔ ∀ e ∈ rangeTable s sp d, covers (spaceAw s sp) e a = false := by
  simp [lookup]

/-- In a good state, of two entries of a table that share an address the later is an override (10_state.md R44
item 3). -/
theorem Inv.ovr_of_shared {s : State} (h : Inv s) {sp : Sel} {d : Dir} {j k : Nat} {e e' : RangeEntry} {a : Word32}
    (hjk : j < k) (hj : (rangeTable s sp d)[j]? = some e) (hk : (rangeTable s sp d)[k]? = some e')
    (ha : covers (spaceAw s sp) e a = true) (ha' : covers (spaceAw s sp) e' a = true) : e'.ovr = true := by
  obtain ⟨hjl, rfl⟩ := List.getElem?_eq_some_iff.1 hj
  obtain ⟨hkl, rfl⟩ := List.getElem?_eq_some_iff.1 hk
  exact List.pairwise_iff_getElem.1 (h.overrides sp d) j k hjl hkl hjk a ha ha'

/-- Settles O20: the lookup searches the table from its end, and a table without overrides has no two entries that
share an address. -/
theorem lookupLatestWins : Obligations.LookupLatestWins := by
  intro s sp d a
  refine ⟨fun e => find?_reverse_eq_some_iff, lookup_eq_none_iff, fun hinv hplain j k e e' hj hk ha ha' => ?_⟩
  have plain {i : Nat} {x : RangeEntry} (hi : (rangeTable s sp d)[i]? = some x) : x.ovr ≠ true := by
    simp [hplain x (List.mem_of_getElem? hi)]
  rcases lt_trichotomy j k with hjk | hjk | hjk
  · exact absurd (hinv.ovr_of_shared hjk hj hk ha ha') (plain hk)
  · exact hjk
  · exact absurd (hinv.ovr_of_shared hjk hk hj ha' ha) (plain hj)

end Sys2Proof.Machine

/-! ## Command groups

The words of a command and the command of a group, both ways (30_encoding.md R102 to R115). A header word is taken apart
into its fields; R110 then says that the fields a command does not use are 0, and that an operand word fits the bits its
fields take. -/

namespace Sys2Proof.Laws

/-! ### Header words -/

/-- RSV is bits 31..28 of the header word (30_encoding.md R102). -/
def hRsv (h : Word32) : BitVec 4 := h.extractLsb' 28 4

/-- The fields of a header word (30_encoding.md R102). -/
def headerOf (h : Word32) : Header where
  op := hOp h
  sel := hSel h
  dirm := hDirm h
  ovr := hOvr h
  now := hNow h
  d8 := hD8 h
  wid := hWid h
  tkind := hTkind h
  rsv := hRsv h

/-- The fields leave no bit of the header word out. -/
theorem word_headerOf (h : Word32) : (headerOf h).word = h := by
  simp only [Header.word, headerOf, hOp, hSel, hDirm, hOvr, hNow, hD8, hWid, hTkind, hRsv]
  rw [BitVec.extractLsb'_append_extractLsb'_eq_extractLsb' (show 28 = 26 + 2 from rfl),
    BitVec.extractLsb'_append_extractLsb'_eq_extractLsb' (show 26 = 24 + 2 from rfl),
    BitVec.extractLsb'_append_extractLsb'_eq_extractLsb' (show 24 = 16 + 8 from rfl),
    BitVec.extractLsb'_append_extractLsb'_eq_extractLsb' (show 16 = 15 + 1 from rfl),
    BitVec.extractLsb'_append_extractLsb'_eq_extractLsb' (show 15 = 14 + 1 from rfl),
    BitVec.extractLsb'_append_extractLsb'_eq_extractLsb' (show 14 = 12 + 2 from rfl),
    BitVec.extractLsb'_append_extractLsb'_eq_extractLsb' (show 12 = 8 + 4 from rfl),
    BitVec.extractLsb'_append_extractLsb'_eq_extractLsb' (show 8 = 0 + 8 from rfl)]
  exact BitVec.extractLsb'_eq_self

/-- No two fields share a bit of the header word. -/
theorem headerOf_word (f : Header) : headerOf f.word = f := by
  obtain ⟨op, sel, dirm, ovr, now, d8, wid, tkind, rsv⟩ := f
  simp only [headerOf, Header.mk.injEq, hSel, hDirm, hOvr, hNow, hD8, hWid, hTkind, hRsv, Header.word]
  refine ⟨hOp_word ⟨op, sel, dirm, ovr, now, d8, wid, tkind, rsv⟩, ?_, ?_, ?_, ?_, ?_, ?_, ?_, ?rsv⟩
  case rsv =>
    repeat rw [BitVec.extractLsb'_append_eq_of_le (by decide)]
    exact BitVec.extractLsb'_eq_self
  all_goals
    repeat rw [BitVec.extractLsb'_append_eq_of_le (by decide)]
    exact BitVec.extractLsb'_append_eq_right

theorem headerOf_inj {h h' : Word32} : headerOf h = headerOf h' ↔ h = h' :=
  (Function.LeftInverse.injective word_headerOf).eq_iff

section
variable (f : Header)

@[simp] theorem hSel_word : hSel f.word = f.sel := congrArg Header.sel (headerOf_word f)
@[simp] theorem hDirm_word : hDirm f.word = f.dirm := congrArg Header.dirm (headerOf_word f)
@[simp] theorem hOvr_word : hOvr f.word = f.ovr := congrArg Header.ovr (headerOf_word f)
@[simp] theorem hNow_word : hNow f.word = f.now := congrArg Header.now (headerOf_word f)
@[simp] theorem hD8_word : hD8 f.word = f.d8 := congrArg Header.d8 (headerOf_word f)
@[simp] theorem hWid_word : hWid f.word = f.wid := congrArg Header.wid (headerOf_word f)
@[simp] theorem hTkind_word : hTkind f.word = f.tkind := congrArg Header.tkind (headerOf_word f)

end

/-- The fields of f that commands of opcode c use, the others at 0 (30_encoding.md R103, R110). -/
def usedFields (c : Opcode) (f : Header) : Header :=
  match c with
  | .cfgBank | .cfgPortunit | .bankSelect | .bankActive => { op := c.byte, sel := f.sel }
  | .regRange => { op := c.byte, sel := f.sel, dirm := f.dirm, ovr := f.ovr, tkind := f.tkind }
  | .regPort => { op := c.byte, sel := f.sel, dirm := f.dirm, tkind := f.tkind }
  | .read => { op := c.byte, sel := f.sel, wid := f.wid }
  | .write => { op := c.byte, sel := f.sel, wid := f.wid, d8 := f.d8 }
  | .rcScanline | .rcHpos | .rcHblank | .rcVblank | .rcCblank => { op := c.byte, now := f.now }
  | .rcLinebit => { op := c.byte, now := f.now, d8 := f.d8 }
  | .hret => { op := c.byte, d8 := f.d8 }
  | .cfgGeometry | .start | .step | .rcNow | .schedAfter | .schedPeriodic | .cancel => { op := c.byte }

/-- Two header words and-ed, field by field. -/
def andFields (f m : Header) : Header where
  op := f.op &&& m.op
  sel := f.sel &&& m.sel
  dirm := f.dirm &&& m.dirm
  ovr := f.ovr &&& m.ovr
  now := f.now &&& m.now
  d8 := f.d8 &&& m.d8
  wid := f.wid &&& m.wid
  tkind := f.tkind &&& m.tkind
  rsv := f.rsv &&& m.rsv

theorem headerOf_and (h m : Word32) : headerOf (h &&& m) = andFields (headerOf h) (headerOf m) := by
  simp only [headerOf, andFields, hOp, hSel, hDirm, hOvr, hNow, hD8, hWid, hTkind, hRsv, BitVec.extractLsb'_and]

theorem headerOf_byte (c : Opcode) : headerOf (c.byte.setWidth 32) = { op := c.byte } := by
  cases c <;> rfl

/-- The all-ones values of the field widths, as `simp` writes them. -/
theorem and_ones : (∀ x : BitVec 1, x &&& 1#1 = x) ∧ (∀ x : BitVec 2, x &&& 3#2 = x) ∧
    (∀ x : BitVec 4, x &&& 15#4 = x) ∧ ∀ x : BitVec 8, x &&& 255#8 = x :=
  ⟨fun _ => BitVec.and_allOnes, fun _ => BitVec.and_allOnes, fun _ => BitVec.and_allOnes,
    fun _ => BitVec.and_allOnes⟩

/-- The decode masks are 1 in OP, in RSV and in the fields that the opcode does not use (30_encoding.md R103). -/
theorem andFields_headerMask_eq_iff (c : Opcode) (f : Header) :
    andFields f (headerOf c.headerMask) = { op := c.byte } ↔ f = usedFields c f := by
  obtain ⟨ones1, ones2, ones4, ones8⟩ := and_ones
  obtain ⟨op, sel, dirm, ovr, now, d8, wid, tkind, rsv⟩ := f
  cases c <;>
    simp only [andFields, headerOf, Opcode.headerMask, hOp, hSel, hDirm, hOvr, hNow, hD8, hWid, hTkind, hRsv,
      BitVec.reduceExtractLsb', usedFields, Header.mk.injEq] <;>
    simp [ones1, ones2, ones4, ones8]

/-- The header check of R115: the fields that the opcode does not use are 0. -/
theorem and_headerMask_eq_iff (c : Opcode) (h : Word32) :
    h &&& c.headerMask = c.byte.setWidth 32 ↔ headerOf h = usedFields c (headerOf h) := by
  rw [← headerOf_inj, headerOf_byte, headerOf_and, andFields_headerMask_eq_iff]

/-- A command's header leaves the fields it does not use at 0. -/
theorem header_eq_usedFields (i : Instr) : i.header = usedFields i.opcode i.header := by
  cases i <;> rfl

/-! ### Codes of fields -/

@[simp] theorem ofBits_bits_tkind (tk : TKind) : TKind.ofBits tk.bits = tk := by cases tk <;> rfl
@[simp] theorem bits_ofBits_tkind : ∀ b : BitVec 2, (TKind.ofBits b).bits = b := by decide
@[simp] theorem ofBits_bits_dirm (dm : DirSet) : DirSet.ofBits dm.bits = dm := by cases dm <;> rfl
theorem bits_ne_zero (dm : DirSet) : dm.bits ≠ 0 := by cases dm <;> decide
theorem bits_ofBits_dirm : ∀ {b : BitVec 2}, b ≠ 0 → (DirSet.ofBits b).bits = b := by decide
theorem ofBool_beq (b : Bool) : (BitVec.ofBool b == 1#1) = b := by cases b <;> rfl
@[simp] theorem ofBool_beq_one : ∀ b : BitVec 1, BitVec.ofBool (b == 1#1) = b := by decide

/-- The command built from a group has the fields of the group's header that its opcode uses. -/
theorem header_build {c : Opcode} {h : Word32} (hdirm : c = .regRange ∨ c = .regPort → hDirm h ≠ 0)
    (w1 w2 w3 : Word64) : (c.build h w1 w2 w3).header = usedFields c (headerOf h) := by
  cases c
  case regRange | regPort =>
    simp [Opcode.build, Instr.header, Instr.opcode, usedFields, headerOf, bits_ofBits_dirm (hdirm (by simp))]
  all_goals
    simp [Opcode.build, Instr.header, Instr.opcode, usedFields, headerOf]

/-! ### Operand words -/

/-- The word has no bit outside the n lowest. -/
def Fits (n : Nat) (w : Word64) : Prop :=
  (w.setWidth n).setWidth 64 = w

theorem fits_iff {n : Nat} {w : Word64} : Fits n w ↔ ∀ k < 64, w.getLsbD k = true → k < n := by
  rw [Fits, BitVec.eq_of_getLsbD_eq_iff]
  simp +contextual

theorem and_not_low_eq_zero_iff {n : Nat} {w : Word64} :
    w &&& ~~~(BitVec.allOnes n).setWidth 64 = 0#64 ↔ Fits n w := by
  rw [fits_iff, BitVec.eq_of_getLsbD_eq_iff]
  simp +contextual

/-- Each word fits its number of bits. -/
def AllFit : List Nat → List Word64 → Prop
  | n :: ns, w :: ws => Fits n w ∧ AllFit ns ws
  | _, _ => True

/-- How many low bits of each operand word R111 gives a field. -/
def operandWidths : Opcode → List Nat
  | .cfgGeometry => [64, 64, 64]
  | .regRange => [64, 48]
  | .cfgBank | .regPort => [48]
  | .cfgPortunit => [1]
  | .bankSelect => [16]
  | .read | .write | .cancel => [32]
  | .step | .rcScanline | .rcHpos | .rcHblank | .rcVblank | .rcCblank | .rcLinebit => [64]
  | .schedAfter | .schedPeriodic => [64, 32]
  | .start | .rcNow | .bankActive | .hret => []

theorem operandBits_eq (c : Opcode) :
    c.operandBits = (operandWidths c).map fun n => (BitVec.allOnes n).setWidth 64 := by
  cases c <;> rfl

theorem operandReserved_low {ns : List Nat} {ws : List Word64} :
    operandReserved (ns.map fun n => (BitVec.allOnes n).setWidth 64) ws = false ↔ AllFit ns ws := by
  induction ns generalizing ws with
  | nil => simp [operandReserved, AllFit]
  | cons n ns ih =>
    cases ws with
    | nil => simp [operandReserved, AllFit]
    | cons w ws =>
      rw [AllFit, ← ih, ← and_not_low_eq_zero_iff]
      simp [operandReserved]

/-- The operand check of R115: each word fits the bits its fields take. -/
theorem operandReserved_eq_false_iff {c : Opcode} {ws : List Word64} :
    operandReserved c.operandBits ws = false ↔ AllFit (operandWidths c) ws := by
  rw [operandBits_eq, operandReserved_low]

/-! An operand word is one field, or two fields of 32 bits, or two fields below 16 reserved bits (R111). -/

section
variable {p q : Nat} (a : BitVec p) (b : BitVec q)

theorem fits_setWidth (hp : p ≤ 64) : Fits p (a.setWidth 64) := by
  rw [Fits, BitVec.setWidth_setWidth_of_le _ hp, BitVec.setWidth_eq]

theorem fits_zero_append_append (hpq : 16 + p + q = 64) : Fits (p + q) ((0#16 ++ a ++ b).cast hpq) := by
  rw [fits_iff]
  intro k _
  simp only [BitVec.getLsbD_cast, BitVec.getLsbD_append, BitVec.getLsbD_zero]
  grind

theorem extractLsb'_setWidth (hp : p ≤ 64) : (a.setWidth 64).extractLsb' 0 p = a := by
  rw [← BitVec.setWidth_eq_extractLsb' hp, BitVec.setWidth_setWidth_of_le _ hp, BitVec.setWidth_eq]

theorem extractLsb'_zero_append_append : (0#16 ++ a ++ b).extractLsb' q p = a := by
  rw [BitVec.extractLsb'_append_eq_of_le (Nat.le_refl q), Nat.sub_self, BitVec.extractLsb'_append_eq_right]

end

theorem fits_word (w : Word64) : Fits 64 w := by
  simp [Fits]

theorem setWidth_extractLsb' {n : Nat} {w : Word64} (hn : n ≤ 64) (h : Fits n w) :
    (w.extractLsb' 0 n).setWidth 64 = w := by
  rw [← BitVec.setWidth_eq_extractLsb' hn]
  exact h

theorem append_extractLsb' (w : Word64) : w.extractLsb' 32 32 ++ w.extractLsb' 0 32 = w := by
  rw [BitVec.extractLsb'_append_extractLsb'_eq_extractLsb' (Nat.zero_add 32).symm]
  exact BitVec.extractLsb'_eq_self

theorem zero_append_extractLsb' {p q : Nat} {w : Word64} (hpq : 16 + p + q = 64) (h : Fits (p + q) w) :
    0#16 ++ w.extractLsb' q p ++ w.extractLsb' 0 q = w.cast hpq.symm := by
  rw [fits_iff] at h
  apply BitVec.eq_of_getLsbD_eq
  intro k hk
  have hlow := h k (by omega)
  simp only [BitVec.getLsbD_append, BitVec.getLsbD_extractLsb', BitVec.getLsbD_zero, BitVec.getLsbD_cast]
  by_cases hkq : k < q
  · simp [hkq]
  · rw [if_neg hkq, Nat.add_sub_cancel' (Nat.le_of_not_lt hkq)]
    grind

/-- A policy word that fits one bit is the code of the policy read from that bit (R111). -/
theorem policy_word {w : Word64} (h : Fits 1 w) :
    (if (if w.extractLsb' 0 1 = 0#1 then Policy.last else .first) = .last then 0#64 else 1#64) = w := by
  have hbit : ∀ b : BitVec 1,
      (if (if b = 0#1 then Policy.last else .first) = .last then 0#64 else 1#64) = b.setWidth 64 := by decide
  rw [hbit, setWidth_extractLsb' (by decide) h]

/-- The operand words of a command leave the bits without a field at 0. -/
theorem allFit_operands (i : Instr) : AllFit (operandWidths i.opcode) i.operands := by
  cases i with
  | cfgGeometry => exact ⟨fits_word _, fits_word _, fits_word _, trivial⟩
  | cfgBank b n size => exact ⟨fits_zero_append_append size n rfl, trivial⟩
  | cfgPortunit u p => cases p <;> exact ⟨rfl, trivial⟩
  | regRange sp dm ovr tk lo hi mask tid => exact ⟨fits_word _, fits_zero_append_append tid mask rfl, trivial⟩
  | regPort u dm tk bitmask tid => exact ⟨fits_zero_append_append tid bitmask rfl, trivial⟩
  | read | write | cancel | bankSelect => exact ⟨fits_setWidth _ (by decide), trivial⟩
  | step | rcScanline | rcHpos | rcHblank | rcVblank | rcCblank | rcLinebit => exact ⟨fits_word _, trivial⟩
  | schedAfter | schedPeriodic => exact ⟨fits_word _, fits_setWidth _ (by decide), trivial⟩
  | start | rcNow | bankActive | hret => trivial

/-- The command built from operand words without reserved bits has those operand words. -/
theorem operands_build {c : Opcode} {w1 w2 w3 : Word64} (hfit : AllFit (operandWidths c) [w1, w2, w3]) (h : Word32) :
    (c.build h w1 w2 w3).operands = [w1, w2, w3].take c.len := by
  cases c with
  | cfgGeometry => simp [Opcode.build, Instr.operands, Opcode.len, append_extractLsb']
  | cfgBank | regPort => exact congrArg ([·]) (zero_append_extractLsb' rfl hfit.1)
  | cfgPortunit => exact congrArg ([·]) (policy_word hfit.1)
  | regRange => exact congrArg₂ ([·, ·]) (append_extractLsb' w1) (zero_append_extractLsb' rfl hfit.2.1)
  | read | write | cancel | bankSelect => exact congrArg ([·]) (setWidth_extractLsb' (by decide) hfit.1)
  | schedAfter | schedPeriodic => exact congrArg (w1 :: [·]) (setWidth_extractLsb' (by decide) hfit.2.1)
  | start | step | rcNow | rcScanline | rcHpos | rcHblank | rcVblank | rcCblank | rcLinebit | bankActive | hret => rfl

/-- Each operand of a command is read back from the place of its field. -/
theorem build_encode (i : Instr) :
    i.opcode.build i.header.word (i.operands.getD 0 0) (i.operands.getD 1 0) (i.operands.getD 2 0) = i := by
  cases i <;>
    simp only [Instr.opcode, Instr.header, Instr.operands, List.getD_cons_zero, List.getD_cons_succ, Opcode.build,
      hSel_word, hDirm_word, hOvr_word, hNow_word, hD8_word, hWid_word, hTkind_word, ofBits_bits_dirm,
      ofBits_bits_tkind, ofBool_beq]
  case cfgPortunit p => cases p <;> rfl
  case cfgGeometry => simp only [BitVec.extractLsb'_append_eq_right, BitVec.extractLsb'_append_eq_left]
  case cfgBank | regPort => rw [BitVec.extractLsb'_append_eq_right, extractLsb'_zero_append_append]
  case regRange lo hi mask tid =>
    rw [BitVec.extractLsb'_append_eq_right, BitVec.extractLsb'_append_eq_left, BitVec.extractLsb'_append_eq_right,
      extractLsb'_zero_append_append]
  case read | write | cancel | bankSelect | schedAfter | schedPeriodic => rw [extractLsb'_setWidth _ (by decide)]

/-! ### Legal groups -/

/-- A group that passes the checks of R115 as opcode c. -/
structure LegalGroup (c : Opcode) (h : Word32) (ws : List Word64) : Prop where
  op : Opcode.ofByte (hOp h) = some c
  length : ws.length = c.len
  header : h &&& c.headerMask = c.byte.setWidth 32
  operands : operandReserved c.operandBits ws = false
  dirm : c = .regRange ∨ c = .regPort → hDirm h ≠ 0
  portDirm : c = .regPort → hDirm h ≠ 3
  time : c.isTimedQuery = true → hNow h = 1 → ws.getD 0 0 = 0

/-- The decoder answers with a command exactly where every check passes. -/
theorem decodeGroup_eq_ok_iff {h : Word32} {ws : List Word64} {i : Instr} :
    decodeGroup h ws = .ok i ↔
      ∃ c, LegalGroup c h ws ∧ c.build h (ws.getD 0 0) (ws.getD 1 0) (ws.getD 2 0) = i := by
  constructor
  · intro hd
    unfold decodeGroup at hd
    split at hd
    · cases hd
    · rename_i c hop
      split_ifs at hd with hlen hmask hres hdirm hport htime
      exact ⟨c,
        { op := hop
          length := not_not.1 hlen
          header := not_not.1 hmask
          operands := by simpa using hres
          dirm := fun hc h0 => hdirm ⟨hc, h0⟩
          portDirm := fun hc h3 => hport ⟨hc, h3⟩
          time := fun ht hn => not_not.1 fun hw => htime ⟨ht, hn, hw⟩ }, Except.ok.inj hd⟩
  · rintro ⟨c, hg, rfl⟩
    simp only [decodeGroup, hg.op]
    rw [if_neg (not_not.2 hg.length), if_neg (not_not.2 hg.header), if_neg (by simp [hg.operands]),
      if_neg fun ⟨hc, h0⟩ => hg.dirm hc h0, if_neg fun ⟨hc, h3⟩ => hg.portDirm hc h3,
      if_neg fun ⟨ht, hn, hw⟩ => hw (hg.time ht hn)]

/-- The words of a well-formed command pass every check of R115. -/
theorem legalGroup_encode {i : Instr} (hwf : i.wf = true) : LegalGroup i.opcode i.header.word i.operands where
  op := headerOpcode_of i (by cases i <;> rfl)
  length := by cases i <;> rfl
  header := by rw [and_headerMask_eq_iff, headerOf_word, ← header_eq_usedFields]
  operands := operandReserved_eq_false_iff.2 (allFit_operands i)
  dirm hc := by
    rw [hDirm_word]
    cases i with
    | regRange sp dm | regPort _ dm => exact bits_ne_zero dm
    | _ => simp [Instr.opcode] at hc
  portDirm hc := by
    rw [hDirm_word]
    cases i with
    | regPort u dm => cases dm <;> simp [Instr.wf, Instr.header, DirSet.bits] at hwf ⊢
    | _ => simp [Instr.opcode] at hc
  time hc hn := by
    rw [hNow_word] at hn
    cases i with
    | rcScanline now t | rcHpos now t | rcHblank now t | rcVblank now t | rcCblank now t | rcLinebit _ now t =>
      cases now <;> simp_all [Instr.wf, timeOk, Instr.header, Instr.operands]
    | _ => simp [Instr.opcode, Opcode.isTimedQuery] at hc

/-- A command built from a legal group is well formed. -/
theorem wf_build {c : Opcode} {h : Word32} {ws : List Word64} (hg : LegalGroup c h ws) (w2 w3 : Word64) :
    (c.build h (ws.getD 0 0) w2 w3).wf = true := by
  cases c with
  | regPort =>
    have both : ∀ b : BitVec 2, b ≠ 0 → b ≠ 3 → DirSet.ofBits b ≠ .rw := by decide
    simpa [Opcode.build, Instr.wf] using both _ (hg.dirm (.inr rfl)) (hg.portDirm rfl)
  | rcScanline | rcHpos | rcHblank | rcVblank | rcCblank | rcLinebit =>
    have htime := hg.time rfl
    simp only [Opcode.build, Instr.wf, timeOk]
    by_cases hn : hNow h = 1 <;> simp_all
  | _ => rfl

theorem take_getD {ws : List Word64} {n : Nat} (h : ws.length = n) (hn : n ≤ 3) :
    [ws.getD 0 0, ws.getD 1 0, ws.getD 2 0].take n = ws := by
  subst h
  match ws with
  | [] | [_] | [_, _] | [_, _, _] => rfl
  | _ :: _ :: _ :: _ :: _ =>
    simp only [List.length_cons] at hn
    omega

/-- The checks see only the L(OP) words of the group. -/
theorem LegalGroup.allFit {c : Opcode} {h : Word32} {ws : List Word64} (hg : LegalGroup c h ws) :
    AllFit (operandWidths c) [ws.getD 0 0, ws.getD 1 0, ws.getD 2 0] := by
  have hfit := operandReserved_eq_false_iff.1 hg.operands
  rw [← take_getD hg.length (by cases c <;> decide)] at hfit
  cases c <;> exact hfit

/-- A command built from a legal group is encoded by the words of that group. -/
theorem encode_build {c : Opcode} {h : Word32} {ws : List Word64} (hg : LegalGroup c h ws) :
    encode (c.build h (ws.getD 0 0) (ws.getD 1 0) (ws.getD 2 0)) = (h, ws) := by
  have hheader := (and_headerMask_eq_iff c h).1 hg.header
  rw [encode, header_build hg.dirm, ← hheader, word_headerOf, operands_build hg.allFit,
    take_getD hg.length (by cases c <;> decide)]

/-- Every decode mask checks RSV (30_encoding.md R102, R103). -/
theorem headerMask_reserved (c : Opcode) {k : Nat} (hlo : 28 ≤ k) (hhi : k < 32) : c.headerMask.getLsbD k = true := by
  have hrsv : hRsv c.headerMask = BitVec.allOnes 4 := by cases c <;> rfl
  have hbit : (hRsv c.headerMask).getLsbD (k - 28) = true := by
    rw [hrsv, BitVec.getLsbD_allOnes]
    exact decide_eq_true (by omega)
  rw [hRsv, BitVec.getLsbD_extractLsb', Nat.add_sub_cancel' hlo] at hbit
  exact (Bool.and_eq_true_iff.1 hbit).2

/-- A header bit that the decode mask checks is a bit of OP where it is set. -/
theorem LegalGroup.lt_of_header_bit {c : Opcode} {h : Word32} {ws : List Word64} (hg : LegalGroup c h ws) {k : Nat}
    (hm : c.headerMask.getLsbD k = true) (hk : h.getLsbD k = true) : k < 8 := by
  by_contra h8
  have hbit := congrArg (·.getLsbD k) hg.header
  simp [hm, hk, BitVec.getLsbD_of_ge c.byte k (by omega)] at hbit

/-- An operand bit that is set belongs to a field. -/
theorem LegalGroup.operand_bit {c : Opcode} {h : Word32} {ws : List Word64} (hg : LegalGroup c h ws) {j k : Nat}
    {w bits : Word64} (hw : ws[j]? = some w) (hb : c.operandBits[j]? = some bits) (hk : w.getLsbD k = true) :
    bits.getLsbD k = true := by
  have hmem : (bits, w) ∈ List.zip c.operandBits ws :=
    List.mem_of_getElem? (List.getElem?_zip_eq_some.2 ⟨hb, hw⟩)
  have hand : w &&& ~~~bits = 0#64 := by simpa using List.any_eq_false.1 hg.operands _ hmem
  simpa [hk, BitVec.lt_of_getLsbD hk] using congrArg (·.getLsbD k) hand

end Sys2Proof.Laws

namespace Sys2Proof.Machine

open Sys2Proof.Laws

/-- Settles O1: the words of a well-formed command pass every check, and each field is read back from its place. -/
theorem decodeOfEncode : Obligations.DecodeOfEncode := by
  intro i hwf
  exact decodeGroup_eq_ok_iff.2 ⟨i.opcode, legalGroup_encode hwf, build_encode i⟩

/-- Settles O2: the checks leave only the bits that a field of the command accounts for. -/
theorem encodeOfDecode : Obligations.EncodeOfDecode := by
  intro h ws i hd
  obtain ⟨c, hg, rfl⟩ := decodeGroup_eq_ok_iff.1 hd
  exact ⟨encode_build hg, wf_build hg _ _⟩

/-- Words that decode to no command raise F_ILLEGAL, whatever the reason (30_encoding.md R113). -/
theorem runGroup_of_not_ok {h : Word32} {ws : List Word64} (hno : ∀ i, decodeGroup h ws ≠ .ok i) (s : State) :
    runGroup h ws s = raiseIllegal s := by
  rw [runGroup]
  cases hd : decodeGroup h ws with
  | error e => rfl
  | ok i => exact absurd hd (hno i)

/-- Settles O3: a legal group has no reserved bit set, so the words decode to no command. -/
theorem reservedBitFaults : Obligations.ReservedBitFaults := by
  refine ⟨fun c k hlo hhi => headerMask_reserved c hlo hhi, fun h ws c hop _ hbad s => ?_⟩
  refine runGroup_of_not_ok (fun i hd => ?_) s
  obtain ⟨c', hg, -⟩ := decodeGroup_eq_ok_iff.1 hd
  obtain rfl : c' = c := Option.some.inj (hg.op.symm.trans hop)
  obtain ⟨k, h8, hm, hk⟩ | ⟨j, w, bits, k, hw, hb, hk, hr⟩ := hbad
  · exact absurd (hg.lt_of_header_bit hm hk) (by omega)
  · exact absurd (hg.operand_bit hw hb hk) (by simp [hr])

/-- Settles O4: the decoder runs on each group of words. -/
theorem sampleWordsDecode : Obligations.SampleWordsDecode := by
  refine ⟨?_, ?_, ?_, ?_, ?_, ?_, ?_, ?_, ?_, ?_⟩ <;> rfl

/-- A group that stands at the interface in Config or Run is taken whole and run. -/
theorem step_groupInputs {s : State} {h : Word32} {ws : List Word64} {rest : List Input}
    (hin : s.inbox = groupInputs (h, ws) ++ rest) (hlen : ws.length = operandCount h) (hs : s.halted = false) :
    step s = runGroup h ws { s with inbox := rest } := by
  have hin : s.inbox = .header h :: (ws.map .operand ++ rest) := hin
  have htake : takeOperands (operandCount h) (ws.map .operand ++ rest) = .words ws rest :=
    hlen ▸ takeOperands_map ws rest
  simp [step, hs, hin, htake]

/-- Settles O5: words that decode to a command are as many as their header asks for, so the step takes them. -/
theorem stepRunsDecodedGroup : Obligations.StepRunsDecodedGroup := by
  intro s h ws rest i hin hd hs
  obtain ⟨c, hg, -⟩ := decodeGroup_eq_ok_iff.1 hd
  have hlen : ws.length = operandCount h := by simp only [operandCount, hg.op, hg.length]
  refine ⟨?_, fun hne => if_neg hne⟩
  rw [step_groupInputs hin hlen hs, runGroup, hd]

end Sys2Proof.Machine

/-! ## Registration in phase Config

What CFG_GEOMETRY, CFG_BANK, CFG_PORTUNIT, REG_RANGE, REG_PORT and START do when their phase is right (40_config.md R141
to R156): one rule per outcome that the statements name, REG_RANGE's in the order of its checks. -/

namespace Sys2Proof.Machine

theorem inPhase_config {s : State} (hp : s.phase = .config) (body : Result) : inPhase [.config] s body = body :=
  inPhase_of_mem (halted_eq_false_iff.2 (.inl hp)) (List.mem_singleton.2 hp)

theorem raiseConfig_eq (k : CfgKind) (info : List InfoItem) (s : State) :
    raiseConfig k info s = .next (afterConfigError k info s) := rfl

/-! ### Geometry, slots, units and START -/

theorem execCfgGeometry_of_legal {s : State} {cpl lpf hbs hbe vbs vbe : Word32} (hp : s.phase = .config)
    (hg : Geometry.Legal ⟨cpl, lpf, hbs, hbe, vbs, vbe⟩) :
    execCfgGeometry cpl lpf hbs hbe vbs vbe s = .next { s with geo := some ⟨cpl, lpf, hbs, hbe, vbs, vbe⟩ } := by
  rw [execCfgGeometry, inPhase_config hp]
  exact if_pos hg

/-- A CFG_GEOMETRY after which the block is still in phase Config raised no error: it set the geometry. -/
theorem eq_withGeo_of_cfgGeometry {i : Instr} {s t : State} (hi : i.opcode = .cfgGeometry) (h : exec i s = .next t)
    (ht : t.phase = .config) : t = { s with geo := t.geo } := by
  cases exec_effect h with
  | cfgGeometry => rfl
  | fault => cases ht
  | configError => cases ht
  | answer _ hq => simp [hi, queryOpcodes] at hq
  | schedule _ _ _ hs => simp [hi] at hs
  | scheduleSpent _ hs => simp [hi] at hs
  | _ => cases hi

/-- Settles O11: whatever an earlier CFG_GEOMETRY set is overwritten. -/
theorem cfgGeometryReplaces : Obligations.CfgGeometryReplaces := by
  intro s cpl lpf hbs hbe vbs vbe hp hcpl hlpf hhbs hhbe hvbs hvbe
  have hg : Geometry.Legal ⟨cpl, lpf, hbs, hbe, vbs, vbe⟩ := ⟨hcpl, hlpf, hhbs, hhbe, hvbs, hvbe⟩
  refine ⟨execCfgGeometry_of_legal hp hg, fun i hi t h ht => ?_⟩
  refine (execCfgGeometry_of_legal ht hg).trans ?_
  rw [eq_withGeo_of_cfgGeometry hi h ht]

theorem execCfgBank_of_free {s : State} {b : Sel} {n : Word16} {size : Word32} (hp : s.phase = .config)
    (hb : b.toNat < s.params.numBanks) (hfree : bankAt s b.toNat = none) (hn : n ≠ 0) (hz : size ≠ 0)
    (hle : size.toNat ≤ 2 ^ s.params.awMax) : execCfgBank b n size s = .next (createBank b n size s) := by
  rw [execCfgBank, inPhase_config hp, if_neg (not_le.2 hb), if_neg]
  simp only [hfree, hn, hz, Option.isSome_none, Bool.false_eq_true, false_or, not_lt]
  exact hle

theorem createBank_eq (b : Sel) (n : Word16) (size : Word32) (s : State) :
    createBank b n size s =
      { s with banks := s.banks.set b.toNat (some ⟨n, size, 0⟩) b.isLt, mem := s.mem.clearSlot b.toNat } := by
  have hbanks : s.banks.setIfInBounds b.toNat (some ⟨n, size, 0⟩) = s.banks.set b.toNat (some ⟨n, size, 0⟩) b.isLt :=
    Vector.ext fun i hi => by rw [Vector.getElem_setIfInBounds, Vector.getElem_set]
  rw [createBank, setBank, hbanks]

/-- Settles O12: the cells of the slot are taken off the list of written cells, and no other cell shares a key with
them. -/
theorem cfgBankMakesSlot : Obligations.CfgBankMakesSlot := by
  intro s b n size hp hb hfree hn hz hle
  refine ⟨s.mem.clearSlot b.toNat, ?_, fun b' i off => ?_, Memory.clearSlot_wf⟩
  · rw [← createBank_eq]
    exact execCfgBank_of_free hp hb hfree hn hz hle
  · rw [Memory.read_clearSlot, keySlot_cellKey]
    rfl

theorem execCfgPortunit_of_lt {s : State} {u : Sel} {p : Policy} (hp : s.phase = .config)
    (hu : u.toNat < s.params.numPortUnits) :
    execCfgPortunit u p s = .next { s with policy := s.policy.set u.toNat p u.isLt } := by
  rw [execCfgPortunit, inPhase_config hp, if_neg (not_le.2 hu)]

/-- The target check of REG_PORT (40_config.md R153). -/
theorem portTargetOk_iff {s : State} {tk : TKind} {tid : Word16} {d : Dir} :
    portTargetOk s tk tid d = true ↔
      tk = .device ∨ (tk = .banksel ∧ d = .w ∧ tid.toNat < s.params.numBanks ∧ bankAt s tid.toNat ≠ none) := by
  simp [portTargetOk, Option.isSome_iff_ne_none, and_assoc]

theorem execRegPort_of_ok {s : State} {u : Sel} {dm : DirSet} {tk : TKind} {bitmask : Word32} {tid : Word16}
    (hp : s.phase = .config) (hu : u.toNat < s.params.numPortUnits) (ht : portTargetOk s tk tid (portDir dm) = true)
    (hl : (s.ports[u.toNat]'u.isLt).length ≠ s.params.maxPortEntries) :
    execRegPort u dm tk bitmask tid s = .next (addPort u ⟨bitmask, portDir dm, tk, tid⟩ s) := by
  rw [execRegPort, inPhase_config hp, if_neg (not_le.2 hu), if_neg (by simp [ht]), if_neg hl]

/-- A DIRM of one direction names that direction (40_config.md R153). -/
theorem portDir_single (d : Dir) : portDir (if d = .r then .r else .w) = d := by
  cases d <;> rfl

theorem execStart_of_geo {s : State} {g : Geometry} (hp : s.phase = .config) (hg : s.geo = some g) :
    execStart s = .next { s with phase := .run } := by
  rw [execStart, inPhase_config hp, if_neg (by simp [hg])]

/-- Settles O14: each of the three commands passes its checks. -/
theorem portSetupAndStart : Obligations.PortSetupAndStart := by
  intro s hp
  refine ⟨fun u p hu => execCfgPortunit_of_lt hp hu, fun u tk bitmask tid d hu hl ht => ?_,
    fun g hg => execStart_of_geo hp hg⟩
  have ht : portTargetOk s tk tid (portDir (if d = .r then .r else .w)) = true := by
    rw [portDir_single]
    exact portTargetOk_iff.2 ht
  refine (execRegPort_of_ok hp hu ht hl).trans ?_
  rw [portDir_single]
  rfl

/-! ### Range tables: the searches of REG_RANGE -/

/-- What stands before a direction: at most R, before W (40_config.md R147). -/
theorem DirSet.dirs_eq_append {dm : DirSet} {d : Dir} (hd : d ∈ dm.dirs) :
    ∃ before after, dm.dirs = before ++ d :: after ∧ ∀ d' ∈ before, d = .w ∧ d' = .r ∧ .r ∈ dm.dirs := by
  cases dm <;> cases d
  case r.r => exact ⟨[], [], rfl, nofun⟩
  case w.w => exact ⟨[], [], rfl, nofun⟩
  case rw.r => exact ⟨[], [.w], rfl, nofun⟩
  case rw.w => exact ⟨[.r], [], rfl, by simp [DirSet.dirs]⟩
  all_goals simp [DirSet.dirs] at hd

/-- The full table that TableFull names: R before W. -/
theorem fullTable_eq_some {s : State} {sp : Sel} {dm : DirSet} {d : Dir} (hd : d ∈ dm.dirs)
    (hfull : (rangeTable s sp d).length = s.params.maxRanges)
    (hr : d = .w → .r ∈ dm.dirs → (rangeTable s sp .r).length ≠ s.params.maxRanges) : fullTable s sp dm = some d := by
  obtain ⟨before, after, hsplit, hbefore⟩ := DirSet.dirs_eq_append hd
  refine List.find?_eq_some_iff_append.2 ⟨by simp [hfull], before, after, hsplit, fun d' hd' => ?_⟩
  obtain ⟨hw, rfl, hmem⟩ := hbefore d' hd'
  simp [hr hw hmem]

theorem fullTable_eq_none_iff {s : State} {sp : Sel} {dm : DirSet} :
    fullTable s sp dm = none ↔ ∀ d ∈ dm.dirs, (rangeTable s sp d).length ≠ s.params.maxRanges := by
  simp [fullTable]

/-- A search with positions finds the first element with the property, and its index. -/
theorem find?_zipIdx_eq_some {α : Type} {p : α → Bool} {l : List α} {x : α} {k : Nat} (hk : l[k]? = some x)
    (hx : p x = true) (hfirst : ∀ (j : Nat) (y : α), j < k → l[j]? = some y → p y = false) :
    (l.zipIdx.find? fun q => p q.1) = some (x, k) := by
  obtain ⟨hkl, rfl⟩ := List.getElem?_eq_some_iff.1 hk
  refine List.find?_eq_some_iff_getElem.2 ⟨hx, k, by simpa using hkl, by simp, fun j hj => ?_⟩
  have hjl : j < l.length := hj.trans hkl
  simp [hfirst j l[j] hj (List.getElem?_eq_getElem hjl)]

/-- The decoded sets are disjoint (20_memory.md R68). -/
theorem overlaps_eq_false_iff {aw : Nat} {e1 e2 : RangeEntry} :
    overlaps aw e1 e2 = false ↔ ∀ a : Word32, covers aw e2 a = true → covers aw e1 a = false := by
  rw [← Bool.not_eq_true, overlaps_iff, not_exists]
  refine forall_congr' fun a => ?_
  rw [not_and', Bool.not_eq_true]

/-- No entry of a table meets the new one. -/
def TableClear (s : State) (sp : Sel) (d : Dir) (new : RangeEntry) : Prop :=
  ∀ e ∈ rangeTable s sp d, overlaps (spaceAw s sp) new e = false

theorem tableClear_iff {s : State} {sp : Sel} {d : Dir} {new : RangeEntry} :
    TableClear s sp d new ↔ ∀ e ∈ rangeTable s sp d, ∀ a : Word32, covers (spaceAw s sp) e a = true →
      covers (spaceAw s sp) new a = false := by
  simp only [TableClear, overlaps_eq_false_iff]

theorem TableClear.find?_eq_none {s : State} {sp : Sel} {d : Dir} {new : RangeEntry} (h : TableClear s sp d new) :
    ((rangeTable s sp d).zipIdx.find? fun p => overlaps (spaceAw s sp) new p.1) = none := by
  refine List.find?_eq_none.2 fun p hp => ?_
  simp [h p.1 (List.fst_mem_of_mem_zipIdx hp)]

theorem firstConflict_eq_none_of_clear {s : State} {sp : Sel} {new : RangeEntry} {dm : DirSet}
    (h : ∀ d ∈ dm.dirs, TableClear s sp d new) : firstConflict s sp new dm = none := by
  refine List.findSome?_eq_none_iff.2 fun d hd => ?_
  rw [(h d hd).find?_eq_none, Option.map_none]

/-- The entry that OverlappingRange names: the first in its table, in R before W (40_config.md R147). -/
theorem firstConflict_eq_some {s : State} {sp : Sel} {new e : RangeEntry} {dm : DirSet} {d : Dir} {k : Nat}
    (hd : d ∈ dm.dirs) (hk : (rangeTable s sp d)[k]? = some e) (he : overlaps (spaceAw s sp) new e = true)
    (hfirst : ∀ (j : Nat) (e' : RangeEntry), j < k → (rangeTable s sp d)[j]? = some e' →
      overlaps (spaceAw s sp) new e' = false)
    (hr : d = .w → .r ∈ dm.dirs → TableClear s sp .r new) : firstConflict s sp new dm = some (k, e) := by
  obtain ⟨before, after, hsplit, hbefore⟩ := DirSet.dirs_eq_append hd
  refine List.findSome?_eq_some_iff.2 ⟨before, d, after, hsplit, ?_, fun d' hd' => ?_⟩
  · rw [find?_zipIdx_eq_some hk he hfirst, Option.map_some]
  · obtain ⟨hw, rfl, hmem⟩ := hbefore d' hd'
    rw [(hr hw hmem).find?_eq_none, Option.map_none]

/-! ### Range tables: the outcomes of REG_RANGE -/

/-- The target check of REG_RANGE (40_config.md R148). -/
theorem targetOk_iff {s : State} {tk : TKind} {tid : Word16} {dm : DirSet} {size : Nat} :
    targetOk s tk tid dm size = true ↔
      tk = .device ∨
      (tk = .bank ∧ tid.toNat < s.params.numBanks ∧ ∃ k, bankAt s tid.toNat = some k ∧ k.size.toNat = size) ∨
      (tk = .ports ∧ tid.toNat < s.params.numPortUnits) ∨
      (tk = .banksel ∧ tid.toNat < s.params.numBanks ∧ bankAt s tid.toNat ≠ none ∧ dm = .w) := by
  cases tk with
  | device => simp [targetOk]
  | bank => cases hk : bankAt s tid.toNat <;> simp [targetOk, hk]
  | ports => simp [targetOk]
  | banksel => simp [targetOk, Option.isSome_iff_ne_none, and_assoc]

/-- Dropping the bits of a mask at or above the address width changes no address of the space (20_memory.md R62). -/
theorem and_lowMask_of_lt {a : Word32} {aw : Nat} (h : a.toNat < 2 ^ aw) : a &&& lowMask aw = a := by
  rw [and_mask_eq_self_iff]
  intro k hk
  have hkaw := (toNat_lt_two_pow_iff a aw).1 h k hk
  rw [lowMask, BitVec.getLsbD_ofNat, Nat.testBit_two_pow_sub_one, hkaw, decide_eq_true (BitVec.lt_of_getLsbD hk)]
  rfl

/-- The first checks of REG_RANGE, on the space, the bounds and the mask (40_config.md R147), passed in phase Config. -/
structure RangeFits (s : State) (sp : Sel) (lo hi mask : Word32) : Prop where
  phase : s.phase = .config
  space : sp.toNat < s.params.numSpaces
  ordered : lo.toNat ≤ hi.toNat
  inSpace : hi.toNat < 2 ^ spaceAw s sp
  fold : ∀ a : Word32, lo.toNat ≤ a.toNat → a.toNat ≤ hi.toNat → a &&& (mask &&& lowMask (spaceAw s sp)) = a

section
variable {s : State} {sp : Sel} {dm : DirSet} {ovr : Bool} {tk : TKind} {lo hi mask : Word32} {tid : Word16}

theorem execRegRange_badSelector (hp : s.phase = .config) (hsp : s.params.numSpaces ≤ sp.toNat) :
    execRegRange sp dm ovr tk lo hi mask tid s = raiseConfig .badSelector [infoWord sp] s := by
  rw [execRegRange, inPhase_config hp, if_pos hsp]

theorem execRegRange_malformedRange (hp : s.phase = .config) (hsp : sp.toNat < s.params.numSpaces)
    (hbad : hi.toNat < lo.toNat ∨ 2 ^ spaceAw s sp ≤ hi.toNat) :
    execRegRange sp dm ovr tk lo hi mask tid s =
      raiseConfig .malformedRange [infoWord sp, infoWord lo, infoWord hi] s := by
  rw [execRegRange, inPhase_config hp, if_neg (not_le.2 hsp)]
  exact if_pos hbad

theorem execRegRange_malformedMirrorMask (hp : s.phase = .config) (hsp : sp.toNat < s.params.numSpaces)
    (hle : lo.toNat ≤ hi.toNat) (hin : hi.toNat < 2 ^ spaceAw s sp)
    (hbad : maskOk lo hi (mask &&& lowMask (spaceAw s sp)) = false) :
    execRegRange sp dm ovr tk lo hi mask tid s = raiseConfig .malformedMirrorMask
      [infoWord sp, infoWord lo, infoWord hi, infoWord (mask &&& lowMask (spaceAw s sp))] s := by
  rw [execRegRange, inPhase_config hp, if_neg (not_le.2 hsp)]
  refine (if_neg ?_).trans (if_pos hbad)
  omega

theorem RangeFits.maskOk_ne_false (h : RangeFits s sp lo hi mask) :
    ¬maskOk lo hi (mask &&& lowMask (spaceAw s sp)) = false := by
  simp [(maskOk_iff lo hi _).2 h.fold]

theorem RangeFits.not_malformed (h : RangeFits s sp lo hi mask) :
    ¬(hi.toNat < lo.toNat ∨ 2 ^ spaceAw s sp ≤ hi.toNat) :=
  not_or.2 ⟨not_lt.2 h.ordered, not_le.2 h.inSpace⟩

theorem RangeFits.execRegRange_badTarget (h : RangeFits s sp lo hi mask)
    (ht : targetOk s tk tid dm (hi.toNat - lo.toNat + 1) = false) :
    execRegRange sp dm ovr tk lo hi mask tid s = raiseConfig .badTarget [infoWord tk.bits, infoWord tid] s := by
  rw [execRegRange, inPhase_config h.phase, if_neg (not_le.2 h.space)]
  exact (if_neg h.not_malformed).trans ((if_neg h.maskOk_ne_false).trans (if_pos ht))

theorem RangeFits.execRegRange_tableFull (h : RangeFits s sp lo hi mask)
    (ht : targetOk s tk tid dm (hi.toNat - lo.toNat + 1) = true) {d : Dir} (hf : fullTable s sp dm = some d) :
    execRegRange sp dm ovr tk lo hi mask tid s = raiseConfig .tableFull [infoWord sp, .dir d] s := by
  rw [execRegRange, inPhase_config h.phase, if_neg (not_le.2 h.space)]
  refine (if_neg h.not_malformed).trans ((if_neg h.maskOk_ne_false).trans ((if_neg (by simp [ht])).trans ?_))
  rw [hf]

theorem RangeFits.execRegRange_overlappingRange (h : RangeFits s sp lo hi mask)
    (ht : targetOk s tk tid dm (hi.toNat - lo.toNat + 1) = true) (hf : fullTable s sp dm = none) {k : Nat}
    {old : RangeEntry} (hc : firstConflict s sp (newRange s sp false tk lo hi mask tid) dm = some (k, old)) :
    execRegRange sp dm false tk lo hi mask tid s = raiseConfig .overlappingRange
      [infoWord lo, infoWord hi, .word (BitVec.ofNat 64 k), infoWord old.lo, infoWord old.hi] s := by
  rw [execRegRange, inPhase_config h.phase, if_neg (not_le.2 h.space)]
  refine (if_neg h.not_malformed).trans ((if_neg h.maskOk_ne_false).trans ((if_neg (by simp [ht])).trans ?_))
  simp [hf, hc]

theorem RangeFits.execRegRange_appends (h : RangeFits s sp lo hi mask)
    (ht : targetOk s tk tid dm (hi.toNat - lo.toNat + 1) = true) (hf : fullTable s sp dm = none)
    (hc : ovr = false → firstConflict s sp (newRange s sp ovr tk lo hi mask tid) dm = none) :
    execRegRange sp dm ovr tk lo hi mask tid s =
      .next (dm.dirs.foldl (addRange sp (newRange s sp ovr tk lo hi mask tid)) s) := by
  rw [execRegRange, inPhase_config h.phase, if_neg (not_le.2 h.space)]
  refine (if_neg h.not_malformed).trans ((if_neg h.maskOk_ne_false).trans ((if_neg (by simp [ht])).trans ?_))
  cases ovr
  · simp [hf, hc]
  · simp [hf]

end

/-- Settles O16: each check in its place, the mask check read as R67 and the search for a full table as R before W. -/
theorem regRangeChecks : Obligations.RegRangeChecks := by
  intro s sp dm ovr tk lo hi mask tid hp
  refine ⟨fun hsp => execRegRange_badSelector hp hsp, fun hsp => ⟨fun hbad => execRegRange_malformedRange hp hsp hbad,
    fun hle hin => ⟨?mask, fun hm => ?fits⟩⟩⟩
  case mask =>
    rintro ⟨a, hlo, hhi, ha⟩
    refine execRegRange_malformedMirrorMask hp hsp hle hin ?_
    rw [← Bool.not_eq_true, maskOk_iff]
    exact fun hm => ha (hm a hlo hhi)
  case fits =>
    have h : RangeFits s sp lo hi mask := ⟨hp, hsp, hle, hin, hm⟩
    exact ⟨h.execRegRange_badTarget, fun ht d hd hfull hr =>
      h.execRegRange_tableFull ht (fullTable_eq_some hd hfull hr)⟩

/-- Settles O17: the first entry that shares an address is the one the search finds. -/
theorem regRangeOverlap : Obligations.RegRangeOverlap := by
  rintro s sp dm tk lo hi mask tid d k e _ a hp hsp hle hin rfl hm ht hf hd hk he hnew hfirst hr
  have h : RangeFits s sp lo hi mask := ⟨hp, hsp, hle, hin, hm⟩
  refine h.execRegRange_overlappingRange ht (fullTable_eq_none_iff.2 hf)
    (firstConflict_eq_some hd hk ?meets ?first ?clear)
  case meets => exact (overlaps_iff _ _ _).2 ⟨a, hnew, he⟩
  case first => exact fun j e' hj he' => overlaps_eq_false_iff.2 fun x => hfirst j e' x hj he'
  case clear => exact fun hw hmem => tableClear_iff.2 (hr hw hmem)

/-- Settles O15: the checks pass, and the entry joins the tables of its directions. -/
theorem regRangeAppends : Obligations.RegRangeAppends := by
  intro s sp dm ovr tk lo hi mask tid hp hsp hle hin hm ht hf hc
  have h : RangeFits s sp lo hi mask := by
    refine ⟨hp, hsp, hle, hin, fun a hlo hhi => ?_⟩
    rw [← BitVec.and_assoc, hm a hlo hhi, and_lowMask_of_lt (lt_of_le_of_lt hhi hin)]
  refine ⟨_, h.execRegRange_appends (targetOk_iff.2 ht) (fullTable_eq_none_iff.2 hf) fun ho =>
    firstConflict_eq_none_of_clear fun d hd => tableClear_iff.2 (hc ho d hd), addDirs_eq _ _ _ _, fun sp' d => ?_⟩
  rw [rangeTable_addDirs]
  split_ifs with hd
  · obtain ⟨rfl, -⟩ := hd
    rfl
  · rfl

end Sys2Proof.Machine

/-! ## What phase Run fixes

In phase Run a registration command only raises F_PHASE (40_config.md R140), every other command keeps the tables and
the shape of the slots, and so do save and restore (40_config.md R157). -/

namespace Sys2Proof.Machine

theorem SameShape.of_banks_eq {s t : State} (h : t.banks = s.banks) : SameShape s t :=
  fun b => by rw [bankAt, h, bankAt]

theorem SameShape.trans {s u t : State} (h1 : SameShape s u) (h2 : SameShape u t) : SameShape s t :=
  fun b => (h2 b).trans (h1 b)

/-- The range tables, the port lists, the policies, the geometry, and the N and S of every slot are as before. -/
structure TablesKept (s t : State) : Prop where
  ranges : t.ranges = s.ranges := by simp
  ports : t.ports = s.ports := by simp
  policy : t.policy = s.policy := by simp
  geo : t.geo = s.geo := by simp
  shape : SameShape s t := by exact .of_banks_eq (by simp)

theorem TablesKept.trans {s u t : State} (h1 : TablesKept s u) (h2 : TablesKept u t) : TablesKept s t where
  ranges := h2.ranges.trans h1.ranges
  ports := h2.ports.trans h1.ports
  policy := h2.policy.trans h1.policy
  geo := h2.geo.trans h1.geo
  shape := h1.shape.trans h2.shape

theorem tablesKept_withInbox (s : State) (inbox : List Input) : TablesKept s { s with inbox := inbox } := {}

theorem tablesKept_of_raiseFault {c : FaultCode} {s t : State} (h : raiseFault c s = .next t) : TablesKept s t :=
  raiseFault_eq_next.1 h ▸ {}

/-- A registration command outside phase Config. -/
theorem exec_registration_of_ne_config {i : Instr} {s : State} (hi : i.opcode ∈ registrationOpcodes)
    (hs : s.halted = false) (hp : s.phase ≠ .config) : exec i s = raiseFault .phase s := by
  have hp : s.phase ∉ [Phase.config] := by simpa using hp
  cases i with
  | cfgGeometry => exact inPhase_of_not_mem hs hp
  | cfgBank => exact inPhase_of_not_mem hs hp
  | cfgPortunit => exact inPhase_of_not_mem hs hp
  | regRange => exact inPhase_of_not_mem hs hp
  | regPort => exact inPhase_of_not_mem hs hp
  | start => exact inPhase_of_not_mem hs hp
  | _ => simp [Instr.opcode, registrationOpcodes] at hi

/-- Only CFG_BANK makes a slot, and nothing changes the N and S of one. -/
theorem BanksFrame.sameShape {c : Opcode} {s t : State} (h : BanksFrame c s t) (hc : c ≠ .cfgBank) : SameShape s t := by
  obtain ⟨hkept, hnew⟩ := h
  intro b
  cases hb : bankAt s b with
  | none =>
    have : bankAt t b = none := not_not.1 fun ht => hc (hnew b hb ht)
    rw [this]
  | some k =>
    obtain ⟨k', hk', hn, hz, -⟩ := hkept b k hb
    simp [hk', hn, hz]

theorem Frame.tablesKept {c : Opcode} {s t : State} (h : Frame c s t) (hc : c ∉ registrationOpcodes) :
    TablesKept s t := by
  have hne {c' : Opcode} (hmem : c' ∈ registrationOpcodes) : c ≠ c' := fun heq => hc (heq ▸ hmem)
  exact
    { ranges := not_imp_comm.1 h.ranges (hne (by simp [registrationOpcodes]))
      ports := not_imp_comm.1 h.ports (hne (by simp [registrationOpcodes]))
      policy := not_imp_comm.1 h.policy (hne (by simp [registrationOpcodes]))
      geo := not_imp_comm.1 h.geo (hne (by simp [registrationOpcodes]))
      shape := h.banks.sameShape (hne (by simp [registrationOpcodes])) }

theorem exec_tablesKept {i : Instr} {s t : State} (hp : s.phase = .run) (h : exec i s = .next t) : TablesKept s t := by
  by_cases hi : i.opcode ∈ registrationOpcodes
  · rw [exec_registration_of_ne_config hi (halted_eq_false_iff.2 (.inr hp)) (by simp [hp])] at h
    exact tablesKept_of_raiseFault h
  · exact (exec_effect h).frame.tablesKept hi

theorem runGroup_tablesKept {hd : Word32} {ws : List Word64} {s t : State} (hp : s.phase = .run)
    (h : runGroup hd ws s = .next t) : TablesKept s t := by
  unfold runGroup at h
  split at h
  · cases h
    exact {}
  · have hcount : TablesKept s (countCommand s) := {}
    exact hcount.trans (exec_tablesKept (by simpa using hp) h)

/-- A restore sets the selectors of slots, not their N and S (60_exceptions.md R345). -/
theorem restoreState_sameShape (img : Snapshot) (s : State) : SameShape s (restoreState img s) := by
  intro b
  by_cases hb : b < 16
  · simp only [bankAt, restoreState, Vector.getElem?_eq_getElem hb, Option.join_some, Vector.getElem_ofFn,
      Fin.getElem_fin]
    cases s.banks[b] <;> cases img.banks[b] <;> rfl
  · simp [bankAt, hb]

theorem restoreSnapshot_tablesKept {img : Snapshot} {s t : State} (h : restoreSnapshot img s = .next t) :
    TablesKept s t := by
  obtain ⟨-, hr⟩ | ⟨-, -, hr⟩ | ⟨-, -, hr⟩ := inPhase_cases h
  · cases hr
  · exact tablesKept_of_raiseFault hr.symm
  · split_ifs at hr
    · exact tablesKept_of_raiseFault hr.symm
    · exact tablesKept_of_raiseFault hr.symm
    · cases hr
      exact { shape := restoreState_sameShape img s }

/-- A reset is served, and the inputs behind it stay; or the tables are kept. -/
def ResetOrKept (s t : State) : Prop :=
  (∃ pre rest, s.inbox = pre ++ .reset :: rest ∧ t = serveReset rest s) ∨ TablesKept s t

theorem serveHost_resetOrKept {i : Input} {pre behind rest : List Input} {s t : State}
    (hin : s.inbox = pre ++ i :: behind) (hrest : isReset i = true → rest = behind)
    (h : serveHost i rest s = .next t) : ResetOrKept s t := by
  cases i with
  | save =>
    cases h
    exact .inr {}
  | restore img => exact .inr ((tablesKept_withInbox s rest).trans (restoreSnapshot_tablesKept h))
  | reset =>
    cases h
    exact .inl ⟨pre, rest, hrest rfl ▸ hin, rfl⟩
  | header => cases h
  | operand => cases h

theorem servePast_resetOrKept {serve : Input → Bool} {r : Result} {s t : State}
    (h : servePast serve r s = .next t) (hother : r ≠ .next t) : ResetOrKept s t := by
  unfold servePast at h
  split at h
  · rename_i i rest htake
    obtain ⟨pre, behind, hin, -, -, rfl⟩ := takePast_some htake
    exact serveHost_resetOrKept hin (fun hreset => if_pos hreset) h
  · exact absurd h hother

theorem step_resetOrKept {s t : State} (hp : s.phase = .run) (h : step s = .next t) : ResetOrKept s t := by
  unfold step at h
  split at h
  · exact servePast_resetOrKept h nofun
  split at h
  · cases h
    exact .inr {}
  · split at h
    · rename_i rest _
      exact .inr ((tablesKept_withInbox s rest).trans (runGroup_tablesKept hp h))
    · cases h
      exact .inr {}
    · exact servePast_resetOrKept h nofun
    · exact servePast_resetOrKept h nofun
  · exact servePast_resetOrKept h nofun
  · exact serveHost_resetOrKept (pre := []) ‹_› (fun _ => rfl) h
  · exact serveHost_resetOrKept (pre := []) ‹_› (fun _ => rfl) h
  · exact serveHost_resetOrKept (pre := []) ‹_› (fun _ => rfl) h

/-- Settles O58: commands, illegal groups, saves and restores keep the tables; only a reset is left. -/
theorem tablesFixedInRun : Obligations.TablesFixedInRun := by
  intro s t hp h
  exact (step_resetOrKept hp h).imp_right fun ⟨hranges, hports, hpolicy, hgeo, hshape⟩ =>
    ⟨hranges, hports, hpolicy, hgeo, hshape⟩

end Sys2Proof.Machine

/-! ## READ and WRITE

The checks of an access in their order, and what the target of the range that answers does with it (41_access.md R170 to
R177): one rule per outcome that the statements name. -/

namespace Sys2Proof.Machine

theorem raiseFault_eq (c : FaultCode) (s : State) : raiseFault c s = .next (afterFault c s) := rfl

/-! ### The access checks -/

section
variable {s : State} {sp : Sel} {wid : BitVec 2} {a : Word32} (body : Result)

theorem accessChecks_config (hp : s.phase = .config) :
    accessChecks sp wid a s body = .next (afterFault .phase s) :=
  inPhase_of_not_mem (halted_eq_false_iff.2 (.inl hp)) (by simp [hp])

/-- In phase Run the checks after the first stand (41_access.md R170). -/
theorem accessChecks_run (hp : s.phase = .run) : accessChecks sp wid a s body =
    if s.ctx ≠ .top then raiseFault .context s
    else if s.params.numSpaces ≤ sp.toNat then raiseFault .selector s
    else if wid ≠ 0 then raiseFault .width s
    else if 2 ^ spaceAw s sp ≤ a.toNat then raiseFault .address s
    else body :=
  inPhase_of_mem (halted_of_run hp) (List.mem_singleton.2 hp)

theorem accessChecks_context (hp : s.phase = .run) (hctx : s.ctx ≠ .top) :
    accessChecks sp wid a s body = .next (afterFault .context s) := by
  rw [accessChecks_run body hp, if_pos hctx, raiseFault_eq]

theorem accessChecks_selector (hp : s.phase = .run) (hctx : s.ctx = .top) (hsp : s.params.numSpaces ≤ sp.toNat) :
    accessChecks sp wid a s body = .next (afterFault .selector s) := by
  rw [accessChecks_run body hp, if_neg (not_not.2 hctx), if_pos hsp, raiseFault_eq]

theorem accessChecks_width (hp : s.phase = .run) (hctx : s.ctx = .top) (hsp : sp.toNat < s.params.numSpaces)
    (hw : wid ≠ 0) : accessChecks sp wid a s body = .next (afterFault .width s) := by
  rw [accessChecks_run body hp, if_neg (not_not.2 hctx), if_neg (not_le.2 hsp), if_pos hw, raiseFault_eq]

theorem accessChecks_address (hp : s.phase = .run) (hctx : s.ctx = .top) (hsp : sp.toNat < s.params.numSpaces)
    (hw : wid = 0) (ha : 2 ^ spaceAw s sp ≤ a.toNat) :
    accessChecks sp wid a s body = .next (afterFault .address s) := by
  rw [accessChecks_run body hp, if_neg (not_not.2 hctx), if_neg (not_le.2 hsp), if_neg (not_not.2 hw), if_pos ha,
    raiseFault_eq]

theorem AccessOk.accessChecks_eq (h : AccessOk s sp wid a) : accessChecks sp wid a s body = body := by
  obtain ⟨hp, hctx, hsp, hw, ha⟩ := h
  rw [accessChecks_run body hp, if_neg (not_not.2 hctx), if_neg (not_le.2 hsp), if_neg (not_not.2 hw),
    if_neg (not_le.2 ha)]

end

/-- READ and WRITE make the same checks before anything else (41_access.md R170). -/
theorem exec_access {i : Instr} {sp : Sel} {wid : BitVec 2} {v : Byte} {a : Word32}
    (hi : i = .read sp wid a ∨ i = .write sp wid v a) (s : State) :
    ∃ body, exec i s = accessChecks sp wid a s body := by
  obtain rfl | rfl := hi
  · exact ⟨_, rfl⟩
  · exact ⟨_, rfl⟩

end Sys2Proof.Machine

namespace Sys2Proof

open Machine in
/-- Settles O21: each check fails where those before it pass. -/
theorem accessChecks : Obligations.AccessChecks := by
  intro s sp wid v a i hi
  obtain ⟨body, hexec⟩ := exec_access hi s
  rw [hexec]
  exact ⟨accessChecks_config body, fun hp => ⟨accessChecks_context body hp, fun hctx =>
    ⟨accessChecks_selector body hp hctx, fun hsp =>
      ⟨accessChecks_width body hp hctx hsp, accessChecks_address body hp hctx hsp⟩⟩⟩⟩

end Sys2Proof

namespace Sys2Proof.Machine

/-! ### The range that answers -/

section
variable {s : State} {sp : Sel} {wid : BitVec 2} {a : Word32} {e : RangeEntry}

theorem AccessOk.exec_read (h : AccessOk s sp wid a) (he : lookup s sp .r a = some e) :
    exec (.read sp wid a) s = readTarget sp a e s := by
  refine (h.accessChecks_eq _).trans ?_
  rw [he]

theorem AccessOk.exec_read_unmapped (h : AccessOk s sp wid a) (he : lookup s sp .r a = none) :
    exec (.read sp wid a) s = .next (finishOpenBus sp (emit (.unmapped sp .r a) s)) := by
  refine (h.accessChecks_eq _).trans ?_
  rw [he]

theorem AccessOk.exec_write (h : AccessOk s sp wid a) (v : Byte) (he : lookup s sp .w a = some e) :
    exec (.write sp wid v a) s = writeTarget sp v a e s := by
  refine (h.accessChecks_eq _).trans ?_
  rw [he]

theorem AccessOk.exec_write_unmapped (h : AccessOk s sp wid a) (v : Byte) (he : lookup s sp .w a = none) :
    exec (.write sp wid v a) s = .next (finishWrite sp v (emit (.unmapped sp .w a) s)) := by
  refine (h.accessChecks_eq _).trans ?_
  rw [he]

end

/-- Settles O25: both accesses reach the DEVICE target, which invokes the handler. -/
theorem deviceAccessInvokes : Obligations.DeviceAccessInvokes := by
  intro s sp v a e ha htk
  refine ⟨fun he => ?read, fun he => ?write⟩
  case read =>
    rw [ha.exec_read he, readTarget, htk]
    rfl
  case write =>
    rw [ha.exec_write v he, writeTarget, htk]
    rfl

/-! ### The bus -/

theorem driveBus_eq (sp : Sel) (v : Byte) (s : State) :
    driveBus sp v s = { s with busLatch := latchAfter s sp v } := by
  unfold driveBus latchAfter
  cases s.params.openBus <;> rfl

theorem finishWrite_eq (sp : Sel) (v : Byte) (s : State) :
    finishWrite sp v s = { s with busLatch := latchAfter s sp v } :=
  driveBus_eq sp v s

theorem finishRead_eq (sp : Sel) (v : Byte) (s : State) :
    finishRead sp v s = { s with responses := s.responses ++ [v.setWidth 64], busLatch := latchAfter s sp v } := by
  rw [finishRead, driveBus_eq]
  rfl

/-- The open-bus value, and the state after drawing it (41_access.md R176). -/
theorem openBus_spec (sp : Sel) (s : State) :
    OpenBusByte s sp (openBus sp s).1 (openBus sp s).2.draws ∧
      (openBus sp s).2 = { s with draws := (openBus sp s).2.draws } := by
  unfold OpenBusByte openBus
  cases s.params.openBus with
  | draw => exact ⟨⟨rfl, rfl⟩, rfl⟩
  | fixed v => exact ⟨⟨rfl, rfl⟩, rfl⟩
  | lastDriven v0 => exact ⟨⟨rfl, rfl⟩, rfl⟩

/-- A read that completes with the open-bus value (41_access.md R176, R177). -/
theorem finishOpenBus_spec (sp : Sel) (s : State) :
    ∃ ob n, OpenBusByte s sp ob n ∧ finishOpenBus sp s =
      { s with responses := s.responses ++ [ob.setWidth 64], busLatch := latchAfter s sp ob, draws := n } := by
  obtain ⟨hob, hdraws⟩ := openBus_spec sp s
  refine ⟨_, _, hob, ?_⟩
  rw [finishOpenBus, finishRead_eq, hdraws]
  rfl

/-- Settles O26: nothing answers, so the record is all that precedes the completion. -/
theorem unmappedAccess : Obligations.UnmappedAccess := by
  intro s sp v a ha
  refine ⟨fun he => ?read, fun he => ?write⟩
  case read =>
    obtain ⟨ob, n, hob, hfinish⟩ := finishOpenBus_spec sp (emit (.unmapped sp .r a) s)
    refine ⟨ob, n, hob, ?_⟩
    rw [ha.exec_read_unmapped he, hfinish]
    rfl
  case write =>
    rw [ha.exec_write_unmapped v he, finishWrite_eq]
    rfl

/-! ### Bank cells -/

/-- The state with cell (b, i, off) written (10_state.md R32). -/
def setCell (b : Nat) (i : Word16) (off : Word32) (v : Byte) (s : State) : State :=
  { s with mem := s.mem.write s.params.bankInit (cellKey b i off) v }

section
variable {s : State} {b : Nat} {k : Bank} {off : Word32} (hk : bankAt s b = some k)
  (hoff : off.toNat < k.size.toNat)
include hk hoff

theorem bufRead_of_written {v : Byte} (hv : s.cell b k.sel off = some v) : bufRead b off s = .ok v := by
  simp [bufRead, hk, not_le.2 hoff, hv]

theorem bufRead_of_unwritten (hv : s.cell b k.sel off = none) :
    bufRead b off s = .error (raiseFault .unwritten s) := by
  simp [bufRead, hk, not_le.2 hoff, hv]

theorem bufWrite_eq_setCell (v : Byte) : bufWrite b off v s = .ok (setCell b k.sel off v s) := by
  simp [bufWrite, hk, not_le.2 hoff, setCell]

end

section
variable {s : State} {sp : Sel} {a : Word32} {e : RangeEntry} {v : Byte} (htk : e.tkind = .bank)
include htk

theorem readTarget_of_bufRead_ok (h : bufRead e.tid.toNat (rangeOffset a e) s = .ok v) :
    readTarget sp a e s = .next (finishRead sp v s) := by
  simp only [readTarget, htk, h]

theorem readTarget_of_bufRead_error {r : Result} (h : bufRead e.tid.toNat (rangeOffset a e) s = .error r) :
    readTarget sp a e s = r := by
  simp only [readTarget, htk, h]

theorem writeTarget_of_bufWrite_ok {t : State} (h : bufWrite e.tid.toNat (rangeOffset a e) v s = .ok t) :
    writeTarget sp v a e s = .next (finishWrite sp v t) := by
  simp only [writeTarget, htk, h]

end

theorem cell_setCell_same {s : State} (h : Inv s) (b : Nat) (i : Word16) (off : Word32) (v : Byte) :
    (setCell b i off v s).cell b i off = some v :=
  Memory.read_write_same h.mem

theorem cell_setCell_other {s : State} {b b' : Nat} {i i' : Word16} {off off' : Word32} (v : Byte)
    (hne : (b', i', off') ≠ (b, i, off)) : (setCell b i off v s).cell b' i' off' = s.cell b' i' off' := by
  refine Memory.read_write_other fun hkey => hne ?_
  obtain ⟨rfl, rfl, rfl⟩ := cellKey_inj.1 hkey
  rfl

/-- The slot and the offset a BANK range leads to, in a good state (20_memory.md R64, 40_config.md R148). -/
theorem Inv.bankTarget {s : State} (h : Inv s) {sp : Sel} {d : Dir} {a : Word32} {e : RangeEntry}
    (he : lookup s sp d a = some e) (htk : e.tkind = .bank) :
    ∃ k, bankAt s e.tid.toNat = some k ∧
      (rangeOffset a e).toNat = (a &&& e.mask).toNat - e.lo.toNat ∧ (rangeOffset a e).toNat < k.size.toNat := by
  obtain ⟨hmem, hcov⟩ := lookup_some he
  obtain ⟨k, hk, hoff⟩ := (h.ranges sp d e hmem).bank_cell htk hcov
  exact ⟨k, hk, (rangeOffset_toNat hcov).1, hoff⟩

/-- Settles O22: the range leads to a cell of the active buffer, which was written or was not. -/
theorem readBankCell : Obligations.ReadBankCell := by
  intro s sp a e h ha he htk
  obtain ⟨k, hk, hval, hoff⟩ := h.bankTarget he htk
  refine ⟨k, hk, hval, hoff, fun v hv => ?written, fun hv => ?unwritten⟩
  case written =>
    rw [ha.exec_read he, readTarget_of_bufRead_ok htk (bufRead_of_written hk hoff hv), finishRead_eq]
  case unwritten =>
    rw [ha.exec_read he, readTarget_of_bufRead_error htk (bufRead_of_unwritten hk hoff hv), raiseFault_eq]

/-- Settles O23: the range leads to a cell of the active buffer, and no other cell shares its key. -/
theorem writeBankCell : Obligations.WriteBankCell := by
  intro s sp v a e h ha he htk
  obtain ⟨k, hk, hval, hoff⟩ := h.bankTarget he htk
  refine ⟨k, finishWrite sp v (setCell e.tid.toNat k.sel (rangeOffset a e) v s), hk, hval, hoff, ?_, ?_⟩
  · rw [ha.exec_write v he, writeTarget_of_bufWrite_ok htk (bufWrite_eq_setCell hk hoff v)]
  · rw [finishWrite_eq]
    exact ⟨rfl, cell_setCell_same h _ _ _ v, fun _ _ _ => cell_setCell_other v⟩

/-- Settles O24: the write keeps the tables and the slots, so the read reaches the cell that was written. -/
theorem readAfterWriteThroughMirror : Obligations.ReadAfterWriteThroughMirror := by
  intro s spW spR v aW aR eW eR h haW haR heW htkW heR htkR htid hoff
  obtain ⟨k, t, hk, -, -, hwrite, ht, hcell, -⟩ := writeBankCell s spW v aW eW h haW heW htkW
  have hinv : Inv t := (exec_effect hwrite).inv h
  generalize t.mem = m at ht
  subst ht
  obtain ⟨k', hk', -, -, hread, -⟩ := readBankCell _ spR aR eR hinv haR heR htkR
  obtain rfl : k' = k := Option.some.inj (hk'.symm.trans (htid ▸ hk))
  refine ⟨_, _, hwrite, hread v ?_, rfl, rfl⟩
  rw [htid, hoff]
  exact hcell

end Sys2Proof.Machine

/-! ## Port dispatch

A dispatch walks its entries and suspends at each matching DEVICE entry; the next HRET resumes it at the entry behind
(42_portdispatch.md R191, R194, 46_invocation.md R302). A dispatch answered by one HRET for each of them therefore
passes over a run of entries with all their effects made, and stands at the entries behind that run. -/

namespace Sys2Proof.Machine

/-! ### A port range leads to its unit's list -/

section
variable {s : State} {u : Word16} {es : List PortEntry} (hes : portList s u.toNat = some es)
include hes

theorem portWrite_of_list (o : Word32) (v : Byte) (sp : Sel) (k : Nat) :
    portWrite u o v sp k s = dispatchWrite u o v sp k (es.drop k) s := by
  rw [portWrite, hes]

theorem portRead_of_list (o : Word32) (sp : Sel) (acc : Option Byte) (k : Nat) :
    portRead u o sp acc k s = dispatchRead u o sp acc k (es.drop k) s := by
  rw [portRead, hes]

end

section
variable {s : State} {sp : Sel} {wid : BitVec 2} {a : Word32} {e : RangeEntry} {es : List PortEntry}
  (ha : AccessOk s sp wid a) (htk : e.tkind = .ports) (hes : portList s e.tid.toNat = some es)
include ha htk hes

theorem AccessOk.exec_write_ports (v : Byte) (he : lookup s sp .w a = some e) :
    exec (.write sp wid v a) s = dispatchWrite e.tid (rangeOffset a e) v sp 0 es s := by
  rw [ha.exec_write v he, writeTarget, htk]
  exact portWrite_of_list hes _ v sp 0

theorem AccessOk.exec_read_ports (he : lookup s sp .r a = some e) :
    exec (.read sp wid a) s = dispatchRead e.tid (rangeOffset a e) sp none 0 es s := by
  rw [ha.exec_read he, readTarget, htk]
  exact portRead_of_list hes _ sp none 0

end

/-! ### One entry of a dispatch -/

section
variable {u : Word16} {o : Word32} {v : Byte} {sp : Sel} {k : Nat} {acc : Option Byte} {p : PortEntry}
  {es : List PortEntry} {s : State}

theorem dispatchWrite_skip (hm : portMatches .w o p = false) :
    dispatchWrite u o v sp k (p :: es) s = dispatchWrite u o v sp (k + 1) es s := by
  simp [dispatchWrite, hm]

theorem dispatchWrite_device (hm : portMatches .w o p = true) (htk : p.tkind = .device) :
    dispatchWrite u o v sp k (p :: es) s =
      .next (invoke (.invWrite p.tid o v) .handler (.portIter u .w o v (k + 1) none sp) s) := by
  simp [dispatchWrite, hm, htk]

theorem dispatchWrite_select {t : State} (hm : portMatches .w o p = true) (htk : p.tkind = .banksel)
    (hsel : bankSelect p.tid.toNat (v.setWidth 16) s = .ok t) :
    dispatchWrite u o v sp k (p :: es) s = dispatchWrite u o v sp (k + 1) es t := by
  simp [dispatchWrite, hm, htk, hsel]

theorem dispatchWrite_selectError {r : Result} (hm : portMatches .w o p = true) (htk : p.tkind = .banksel)
    (hsel : bankSelect p.tid.toNat (v.setWidth 16) s = .error r) : dispatchWrite u o v sp k (p :: es) s = r := by
  simp [dispatchWrite, hm, htk, hsel]

theorem dispatchRead_skip (hm : portMatches .r o p = false) :
    dispatchRead u o sp acc k (p :: es) s = dispatchRead u o sp acc (k + 1) es s := by
  rw [dispatchRead, if_neg (by simp [hm])]

theorem dispatchRead_device (hm : portMatches .r o p = true) (htk : p.tkind = .device) :
    dispatchRead u o sp acc k (p :: es) s =
      .next (invoke (.invRead p.tid o) .handler (.portIter u .r o 0 (k + 1) acc sp) s) := by
  rw [dispatchRead, if_pos hm, htk]

theorem invoked_skip {d : Dir} (hm : portMatches d o p = false) : invoked d o (p :: es) = invoked d o es := by
  simp [invoked, hm]

theorem invoked_device {d : Dir} (hm : portMatches d o p = true) (htk : p.tkind = .device) :
    invoked d o (p :: es) = p :: invoked d o es := by
  simp [invoked, hm, htk]

theorem invoked_selector {d : Dir} (htk : p.tkind = .banksel) : invoked d o (p :: es) = invoked d o es := by
  simp [invoked, htk]

end

/-! ### No entry matches -/

theorem portMatches_zero (d : Dir) (p : PortEntry) : portMatches d 0 p = false := by
  simp [portMatches]

theorem dispatchWrite_of_no_match {u : Word16} {o : Word32} {v : Byte} {sp : Sel} {k : Nat} {es : List PortEntry}
    {s : State} (hno : ∀ p ∈ es, portMatches .w o p = false) :
    dispatchWrite u o v sp k es s = .next (finishWrite sp v s) := by
  induction es generalizing k with
  | nil => rfl
  | cons p es ih => rw [dispatchWrite_skip (hno p (by simp)), ih fun q hq => hno q (by simp [hq])]

theorem dispatchRead_of_no_match {u : Word16} {o : Word32} {sp : Sel} {k : Nat} {es : List PortEntry} {s : State}
    (hno : ∀ p ∈ es, portMatches .r o p = false) :
    dispatchRead u o sp none k es s = .next (finishOpenBus sp s) := by
  induction es generalizing k with
  | nil => rfl
  | cons p es ih => rw [dispatchRead_skip (hno p (by simp)), ih fun q hq => hno q (by simp [hq])]

/-- Settles O30: offset 0 has no bit in common with a bitmask, and a dispatch without a match reaches its end. -/
theorem portAccessMatchingNothing : Obligations.PortAccessMatchingNothing := by
  refine ⟨portMatches_zero, fun s sp v a e es ha htk hes => ⟨fun he hno => ?write, fun he hno => ?read⟩⟩
  case write => rw [ha.exec_write_ports htk hes v he, dispatchWrite_of_no_match hno, finishWrite_eq]
  case read =>
    obtain ⟨ob, n, hob, hfinish⟩ := finishOpenBus_spec sp s
    exact ⟨ob, n, hob, by rw [ha.exec_read_ports htk hes he, dispatchRead_of_no_match hno, hfinish]⟩

/-! ### Answering an invocation -/

/-- Run the commands in the next state, if there is one. -/
def thenRun : Result → List Instr → Result
  | .next s, is => runCommands is s
  | .fault r, _ => .fault r
  | .refused r, _ => .refused r

theorem runCommands_cons (i : Instr) (is : List Instr) (s : State) :
    runCommands (i :: is) s = thenRun (exec i s) is := by
  rw [runCommands]
  cases exec i s <;> rfl

@[simp] theorem thenRun_next (s : State) (is : List Instr) : thenRun (.next s) is = runCommands is s := rfl

@[simp] theorem thenRun_nil (r : Result) : thenRun r [] = r := by
  cases r <;> rfl

/-- In phase Run with no invocation outstanding. -/
structure AtTop (s : State) : Prop where
  run : s.phase = .run
  top : s.ctx = .top
  idle : s.cont = none

theorem AccessOk.atTop {s : State} {sp : Sel} {wid : BitVec 2} {a : Word32} (ha : AccessOk s sp wid a) (h : Inv s) :
    AtTop s :=
  ⟨ha.1, ha.2.1, h.ctxTop.1 ha.2.1⟩

theorem AtTop.withRecord {s : State} (h : AtTop s) (r : TraceRec) : AtTop (emit r s) :=
  ⟨h.run, h.top, h.idle⟩

/-- The answer to a handler resumes its continuation, and of the invocation only the record is left
(46_invocation.md R305). -/
theorem AtTop.exec_hret_invoke {s : State} (h : AtTop s) (r : TraceRec) (k : Cont) (d : Byte) :
    exec (.hret d) (invoke r .handler k s) = resume k d (emit r s) := by
  have hend : endInvocation (invoke r .handler k s) = emit r s := by
    rw [endInvocation, invoke, ← h.top, ← h.idle]
    rfl
  rw [← hend]
  exact inPhase_of_mem (halted_of_run h.run) (List.mem_singleton.2 h.run)

/-! ### Reads -/

/-- The state after the handlers of the matching Read entries of es were invoked. -/
def afterReads (o : Word32) (es : List PortEntry) (s : State) : State :=
  { s with trace := s.trace ++ (invoked .r o es).map fun p => .invRead p.tid o }

theorem afterReads_skip {o : Word32} {p : PortEntry} (es : List PortEntry) (s : State)
    (hm : portMatches .r o p = false) : afterReads o (p :: es) s = afterReads o es s := by
  rw [afterReads, invoked_skip hm, afterReads]

theorem afterReads_device {o : Word32} {p : PortEntry} (es : List PortEntry) (s : State)
    (hm : portMatches .r o p = true) (htk : p.tkind = .device) :
    afterReads o (p :: es) s = afterReads o es (emit (.invRead p.tid o) s) := by
  simp [afterReads, invoked_device hm htk, emit]

/-- A read dispatch whose invocations are all answered reaches the end of the list, the answers merged in order. -/
theorem dispatchRead_answered {u : Word16} {o : Word32} {sp : Sel} {acc : Option Byte} {k : Nat}
    {all es : List PortEntry} {s : State} {ds : List Byte} (h : AtTop s) (hall : portList s u.toNat = some all)
    (hdrop : all.drop k = es) (hdev : ∀ p ∈ es, portMatches .r o p = true → p.tkind = .device)
    (hds : ds.length = (invoked .r o es).length) :
    thenRun (dispatchRead u o sp acc k es s) (ds.map .hret) =
      dispatchRead u o sp (ds.foldl (mergeRead (unitPolicy s u.toNat)) acc) (k + es.length) [] (afterReads o es s) := by
  induction es generalizing acc k s ds with
  | nil =>
    obtain rfl : ds = [] := List.length_eq_zero_iff.1 hds
    simp [afterReads, invoked]
  | cons p es ih =>
    have hdrop' : all.drop (k + 1) = es := by rw [← List.tail_drop, hdrop, List.tail_cons]
    have hdev' : ∀ q ∈ es, portMatches .r o q = true → q.tkind = .device := fun q hq => hdev q (by simp [hq])
    have hlen : k + (p :: es).length = k + 1 + es.length := by rw [List.length_cons]; omega
    rw [hlen]
    cases hm : portMatches .r o p with
    | false =>
      rw [invoked_skip hm] at hds
      rw [dispatchRead_skip hm, afterReads_skip es s hm, ih h hall hdrop' hdev' hds]
    | true =>
      have htk := hdev p (by simp) hm
      rw [invoked_device hm htk] at hds
      obtain ⟨d, ds, rfl⟩ := List.exists_cons_of_length_eq_add_one hds
      have hall' : portList (emit (.invRead p.tid o) s) u.toNat = some all := hall
      rw [dispatchRead_device hm htk, thenRun_next, List.map_cons, runCommands_cons, h.exec_hret_invoke, resume,
        portRead_of_list hall', hdrop', afterReads_device es s hm htk,
        ih (h.withRecord _) hall' hdrop' hdev' (Nat.succ.inj hds)]
      rfl

theorem foldl_mergeRead_last (acc : Option Byte) (d : Byte) (ds : List Byte) :
    (d :: ds).foldl (mergeRead .last) acc = some (ds.getLastD d) := by
  induction ds generalizing acc d with
  | nil => rfl
  | cons d' ds ih =>
    rw [List.getLastD_cons]
    exact ih (some d) d'

theorem foldl_mergeRead_first (d : Byte) (ds : List Byte) : ds.foldl (mergeRead .first) (some d) = some d := by
  induction ds with
  | nil => rfl
  | cons d' ds ih => exact ih

/-- The byte the policy picks from the answers (42_portdispatch.md R195). -/
theorem foldl_mergeRead (p : Policy) (d : Byte) (ds : List Byte) :
    (d :: ds).foldl (mergeRead p) none = some (if p = .last then ds.getLastD d else d) := by
  cases p with
  | last => exact foldl_mergeRead_last none d ds
  | first => exact foldl_mergeRead_first d ds

/-- A Read entry that matches is a DEVICE entry (40_config.md R153). -/
theorem PortLegal.device_of_read {s : State} {o : Word32} {p : PortEntry} (h : PortLegal s p)
    (hm : portMatches .r o p = true) : p.tkind = .device := by
  obtain h | ⟨-, hdir, -⟩ := h
  · exact h
  · simp [portMatches, hdir] at hm

/-- Settles O28: the answered dispatch ends with the merged answers. -/
theorem readDispatchInvokesAll : Obligations.ReadDispatchInvokesAll := by
  intro s sp a e es d ds h ha he htk hes hds v hv
  have hdev : ∀ p ∈ es, portMatches .r (rangeOffset a e) p = true → p.tkind = .device :=
    fun p hp => ((h.ports _ es hes).1 p hp).device_of_read
  rw [runCommands_cons, ha.exec_read_ports htk hes he,
    dispatchRead_answered (ha.atTop h) hes List.drop_zero hdev hds, foldl_mergeRead, ← hv, dispatchRead,
    finishRead_eq]
  rfl

/-! ### Writes: the selectors -/

/-- What one entry of a write dispatch does to the slots, where no select stops it. -/
def selectEntry (o : Word32) (v : Byte) (s : State) (p : PortEntry) : State :=
  if portMatches .w o p && p.tkind == .banksel then (bankSelect p.tid.toNat (v.setWidth 16) s).toOption.getD s else s

theorem selectedBanks_eq_foldl (o : Word32) (v : Byte) (es : List PortEntry) (s : State) :
    selectedBanks o v es s = es.foldl (selectEntry o v) s := by
  unfold selectedBanks
  congr 1
  funext t p
  unfold selectEntry
  cases bankSelect p.tid.toNat (v.setWidth 16) t <;> rfl

theorem selectedBanks_cons (o : Word32) (v : Byte) (p : PortEntry) (es : List PortEntry) (s : State) :
    selectedBanks o v (p :: es) s = selectedBanks o v es (selectEntry o v s p) := by
  rw [selectedBanks_eq_foldl, List.foldl_cons, selectedBanks_eq_foldl]

section
variable {o : Word32} {v : Byte} {p : PortEntry} (s : State)

theorem selectEntry_skip (hm : portMatches .w o p = false) : selectEntry o v s p = s := by
  simp [selectEntry, hm]

theorem selectEntry_device (htk : p.tkind = .device) : selectEntry o v s p = s := by
  simp [selectEntry, htk]

theorem selectEntry_select {t : State} (hm : portMatches .w o p = true) (htk : p.tkind = .banksel)
    (hsel : bankSelect p.tid.toNat (v.setWidth 16) s = .ok t) : selectEntry o v s p = t := by
  simp [selectEntry, hm, htk, hsel, Except.toOption]

end

theorem bankSelect_emit (r : TraceRec) (b : Nat) (x : Word16) (s : State) :
    (bankSelect b x (emit r s)).toOption = (bankSelect b x s).toOption.map (emit r) := by
  have hbank : bankAt (emit r s) b = bankAt s b := rfl
  rw [bankSelect, bankSelect, hbank, emit_params]
  cases bankAt s b with
  | none => rfl
  | some k =>
    dsimp only
    split_ifs
    · rfl
    · cases s.params.bankOor <;> rfl

theorem selectEntry_emit (o : Word32) (v : Byte) (r : TraceRec) (s : State) (p : PortEntry) :
    selectEntry o v (emit r s) p = emit r (selectEntry o v s p) := by
  unfold selectEntry
  rw [bankSelect_emit]
  split_ifs
  · cases (bankSelect p.tid.toNat (v.setWidth 16) s).toOption <;> rfl
  · rfl

theorem selectedBanks_emit (o : Word32) (v : Byte) (es : List PortEntry) (r : TraceRec) (s : State) :
    selectedBanks o v es (emit r s) = emit r (selectedBanks o v es s) := by
  induction es generalizing s with
  | nil => rfl
  | cons p es ih => rw [selectedBanks_cons, selectEntry_emit, ih, selectedBanks_cons]

theorem selectEntry_selects (o : Word32) (v : Byte) (s : State) (p : PortEntry) : Selects s (selectEntry o v s p) := by
  unfold selectEntry
  split_ifs
  · cases hsel : bankSelect p.tid.toNat (v.setWidth 16) s with
    | ok t => exact .single ⟨_, _, hsel⟩
    | error r => exact .refl
  · exact .refl

theorem selectedBanks_selects (o : Word32) (v : Byte) (es : List PortEntry) (s : State) :
    Selects s (selectedBanks o v es s) := by
  induction es generalizing s with
  | nil => exact .refl
  | cons p es ih =>
    rw [selectedBanks_cons]
    exact (selectEntry_selects o v s p).trans (ih _)

theorem BanksKept.trans {s t u : State} (h : BanksKept s t) (h' : BanksKept t u) : BanksKept s u := by
  intro b k hk
  obtain ⟨k', hk', hn, hsize⟩ := h b k hk
  obtain ⟨k'', hk'', hn', hsize'⟩ := h' b k' hk'
  exact ⟨k'', hk'', hn'.trans hn, hsize'.trans hsize⟩

theorem Selects.banksKept {s t : State} (h : Selects s t) : BanksKept s t := by
  induction h with
  | refl => exact .of_eq rfl
  | tail _ hstep ih => exact ih.trans hstep.banksKept

theorem toNat_setWidth_byte (v : Byte) : (v.setWidth 16 : Word16).toNat = v.toNat :=
  BitVec.toNat_setWidth_of_le (by decide)

/-! ### Writes: the walk -/

/-- A port entry that, where it matches, does not stop the write of v: a DEVICE entry, or a BANKSEL entry of a slot that
takes the byte (45_bank.md R282). -/
def WriteGoesOn (s : State) (v : Byte) (p : PortEntry) : Prop :=
  p.tkind = .device ∨
    (p.tkind = .banksel ∧
      ∃ k, bankAt s p.tid.toNat = some k ∧ (s.params.bankOor = .fault → v.toNat < k.n.toNat))

theorem WriteGoesOn.transfer {s t : State} {v : Byte} {p : PortEntry} (h : WriteGoesOn s v p) (hb : BanksKept s t)
    (hp : t.params = s.params) : WriteGoesOn t v p := by
  obtain htk | ⟨htk, k, hk, hfault⟩ := h
  · exact .inl htk
  · obtain ⟨k', hk', hn, -⟩ := hb _ k hk
    exact .inr ⟨htk, k', hk', fun ho => hn ▸ hfault (hp ▸ ho)⟩

theorem PortLegal.writeGoesOn {s : State} {v : Byte} {p : PortEntry} (h : PortLegal s p)
    (hfault : s.params.bankOor = .fault → p.tkind = .banksel →
      ∀ k, bankAt s p.tid.toNat = some k → v.toNat < k.n.toNat) :
    WriteGoesOn s v p := by
  obtain htk | ⟨htk, -, hsome⟩ := h
  · exact .inl htk
  · obtain ⟨k, hk⟩ := Option.isSome_iff_exists.1 hsome
    exact .inr ⟨htk, k, hk, fun ho => hfault ho htk k hk⟩

theorem bankSelect_goesOn {s : State} {v : Byte} {b : Nat} {k : Bank} (hk : bankAt s b = some k)
    (hfault : s.params.bankOor = .fault → v.toNat < k.n.toNat) : ∃ t, bankSelect b (v.setWidth 16) s = .ok t := by
  cases hsel : bankSelect b (v.setWidth 16) s with
  | ok t => exact ⟨t, rfl⟩
  | error r =>
    obtain ⟨hnone, -⟩ | ⟨k', hk', hle, ho, -⟩ := bankSelect_error hsel
    · cases hk.symm.trans hnone
    · cases hk.symm.trans hk'
      rw [toNat_setWidth_byte] at hle
      exact absurd (hfault ho) (not_lt.2 hle)

theorem bankSelect_bankIndex {s : State} {v : Byte} {b : Nat} {k : Bank} (hk : bankAt s b = some k)
    (hle : k.n.toNat ≤ v.toNat) (ho : s.params.bankOor = .fault) :
    bankSelect b (v.setWidth 16) s = .error (raiseFault .bankIndex s) := by
  have hout : ¬ (v.setWidth 16 : Word16).toNat < k.n.toNat := by
    rw [toNat_setWidth_byte]
    exact not_lt.2 hle
  rw [bankSelect, hk]
  simp only [if_neg hout, ho]

/-- The state after a write dispatch has passed the entries es: the handlers invoked and the selects made. -/
def afterWrites (o : Word32) (v : Byte) (es : List PortEntry) (s : State) : State :=
  { s with
    trace := s.trace ++ (invoked .w o es).map fun p => .invWrite p.tid o v
    banks := (selectedBanks o v es s).banks }

theorem afterWrites_banksKept (o : Word32) (v : Byte) (es : List PortEntry) (s : State) :
    BanksKept s (afterWrites o v es s) :=
  (selectedBanks_selects o v es s).banksKept

section
variable {o : Word32} {v : Byte} {p : PortEntry} (es : List PortEntry) (s : State)

theorem afterWrites_skip (hm : portMatches .w o p = false) : afterWrites o v (p :: es) s = afterWrites o v es s := by
  rw [afterWrites, invoked_skip hm, selectedBanks_cons, selectEntry_skip s hm, afterWrites]

theorem afterWrites_device (hm : portMatches .w o p = true) (htk : p.tkind = .device) :
    afterWrites o v (p :: es) s = afterWrites o v es (emit (.invWrite p.tid o v) s) := by
  rw [afterWrites, invoked_device hm htk, selectedBanks_cons, selectEntry_device s htk, afterWrites, selectedBanks_emit]
  simp [emit]

theorem afterWrites_select {t : State} (hm : portMatches .w o p = true) (htk : p.tkind = .banksel)
    (hsel : bankSelect p.tid.toNat (v.setWidth 16) s = .ok t) :
    afterWrites o v (p :: es) s = afterWrites o v es t := by
  have ht : t = { s with banks := t.banks } := Selects.eq_withBanks (.single ⟨_, _, hsel⟩)
  rw [afterWrites, invoked_selector htk, selectedBanks_cons, selectEntry_select s hm htk hsel, afterWrites]
  generalize selectedBanks o v es t = t'
  rw [ht]

end

/-- A write dispatch whose invocations among the entries pre are all answered, and which no select among them stops,
reaches the entries behind pre. -/
theorem dispatchWrite_answered {u : Word16} {o : Word32} {v : Byte} {sp : Sel} {k : Nat}
    {all pre rest : List PortEntry} {s : State} {ds : List Byte} (h : AtTop s) (hall : portList s u.toNat = some all)
    (hdrop : all.drop k = pre ++ rest) (hgo : ∀ p ∈ pre, portMatches .w o p = true → WriteGoesOn s v p)
    (hds : ds.length = (invoked .w o pre).length) :
    thenRun (dispatchWrite u o v sp k (pre ++ rest) s) (ds.map .hret) =
      dispatchWrite u o v sp (k + pre.length) rest (afterWrites o v pre s) := by
  induction pre generalizing k s ds with
  | nil =>
    obtain rfl : ds = [] := List.length_eq_zero_iff.1 hds
    simp [afterWrites, invoked, selectedBanks]
  | cons p pre ih =>
    have hdrop' : all.drop (k + 1) = pre ++ rest := by
      rw [← List.tail_drop, hdrop, List.cons_append, List.tail_cons]
    have hgo' {t : State} (hb : BanksKept s t) (hp : t.params = s.params) :
        ∀ q ∈ pre, portMatches .w o q = true → WriteGoesOn t v q :=
      fun q hq hm => (hgo q (by simp [hq]) hm).transfer hb hp
    have hlen : k + (p :: pre).length = k + 1 + pre.length := by rw [List.length_cons]; omega
    rw [hlen, List.cons_append]
    cases hm : portMatches .w o p with
    | false =>
      rw [invoked_skip hm] at hds
      rw [dispatchWrite_skip hm, afterWrites_skip pre s hm, ih h hall hdrop' (hgo' (.of_eq rfl) rfl) hds]
    | true =>
      obtain htk | ⟨htk, b, hb, hfault⟩ := hgo p (by simp) hm
      · rw [invoked_device hm htk] at hds
        obtain ⟨d, ds, rfl⟩ := List.exists_cons_of_length_eq_add_one hds
        have hall' : portList (emit (.invWrite p.tid o v) s) u.toNat = some all := hall
        rw [dispatchWrite_device hm htk, thenRun_next, List.map_cons, runCommands_cons, h.exec_hret_invoke, resume,
          portWrite_of_list hall', hdrop', afterWrites_device pre s hm htk,
          ih (h.withRecord _) hall' hdrop' (hgo' (.of_eq rfl) rfl) (Nat.succ.inj hds)]
      · rw [invoked_selector htk] at hds
        obtain ⟨t, hsel⟩ := bankSelect_goesOn hb hfault
        have hstep : SelectStep s t := ⟨_, _, hsel⟩
        have ht : t = { s with banks := t.banks } := Selects.eq_withBanks (.single hstep)
        have htop : AtTop t := ht ▸ ⟨h.run, h.top, h.idle⟩
        have hparams : t.params = s.params := ht ▸ rfl
        have hlist : portList t u.toNat = some all := ht ▸ hall
        rw [dispatchWrite_select hm htk hsel, afterWrites_select pre s hm htk hsel,
          ih htop hlist hdrop' (hgo' hstep.banksKept hparams) hds]

/-- Settles O27: the answered dispatch passes every entry and completes. -/
theorem writeDispatchInvokesAll : Obligations.WriteDispatchInvokesAll := by
  intro s sp v a e es ds h ha he htk hes hds hfault
  have hgo : ∀ p ∈ es, portMatches .w (rangeOffset a e) p = true → WriteGoesOn s v p := fun p hp hm =>
    ((h.ports _ es hes).1 p hp).writeGoesOn fun ho => hfault ho p hp hm
  have hrun := dispatchWrite_answered (sp := sp) (k := 0) (rest := []) (ha.atTop h) hes (by simp) hgo hds
  rw [List.append_nil] at hrun
  rw [runCommands_cons, ha.exec_write_ports htk hes v he, hrun, dispatchWrite, finishWrite_eq]
  rfl

/-- Settles O29: the answered dispatch reaches the entry p, whose slot still has the N it had, and faults there. -/
theorem writeDispatchFaultStops : Obligations.WriteDispatchFaultStops := by
  intro s sp v a e pre post p k ds h ha ho he htk hes hbelow hds hm hptk hk hle
  have hgo : ∀ q ∈ pre, portMatches .w (rangeOffset a e) q = true → WriteGoesOn s v q := fun q hq hqm =>
    ((h.ports _ _ hes).1 q (by simp [hq])).writeGoesOn fun _ => hbelow q hq hqm
  have hrun := dispatchWrite_answered (sp := sp) (ha.atTop h) hes List.drop_zero hgo hds
  obtain ⟨k', hk', hn, -⟩ := afterWrites_banksKept (rangeOffset a e) v pre s _ k hk
  have hstop := bankSelect_bankIndex hk' (hn ▸ hle) ho
  rw [runCommands_cons, ha.exec_write_ports htk hes v he, hrun, dispatchWrite_selectError hm hptk hstop, raiseFault_eq]
  rfl

end Sys2Proof.Machine

/-! ## The raster decoder

The position and the scanline are the two digits of the time within the frame (43_raster.md R211, R212); a blank is a
window on the cyclic line or on the cyclic frame (R213 to R215), and each query responds one of these functions. -/

namespace Sys2Proof.Machine

/-! ### The time within the frame -/

/-- The time within the frame has the scanline and the position as its digits to the base CPL (R211, R212). -/
theorem scanlineAt_mul_add_hposAt (g : Geometry) (t : Nat) :
    scanlineAt g t * g.cpl.toNat + hposAt g t = t % framePeriod g := by
  rw [framePeriod, Nat.mod_mul, Nat.mul_comm, Nat.add_comm]
  rfl

theorem framePeriod_lt (g : Geometry) : framePeriod g < 2 ^ 64 :=
  calc framePeriod g < 2 ^ 32 * 2 ^ 32 := Nat.mul_lt_mul'' g.cpl.isLt g.lpf.isLt
    _ = 2 ^ 64 := by decide

theorem hposAt_add_framePeriod (g : Geometry) (t : Nat) : hposAt g (t + framePeriod g) = hposAt g t :=
  Nat.add_mul_mod_self_left t _ _

theorem scanlineAt_add_framePeriod {g : Geometry} (hg : g.Legal) (t : Nat) :
    scanlineAt g (t + framePeriod g) = scanlineAt g t := by
  rw [scanlineAt, framePeriod, Nat.add_mul_div_left t _ hg.1, Nat.add_mod_right]
  rfl

/-- Settles O32: every raster signal is a function of the scanline and the position, which have the frame period. -/
theorem rasterFramePeriod : Obligations.RasterFramePeriod := by
  intro g t n hg
  have hline := scanlineAt_add_framePeriod hg t
  have hpos := hposAt_add_framePeriod g t
  refine ⟨scanlineAt_lt hg t, hposAt_lt hg t, scanlineAt_mul_add_hposAt g t, framePeriod_lt g, hline, hpos, ?_⟩
  simp only [isCblank, isHblank, isVblank, lineBit, hline, hpos, and_self]

/-! ### The position and the scanline one cycle later -/

theorem hposAt_succ (g : Geometry) (t : Nat) : hposAt g (t + 1) = (hposAt g t + 1) % g.cpl.toNat :=
  (Nat.mod_add_mod t _ 1).symm

theorem scanlineAt_succ_of_line_start {g : Geometry} {t : Nat} (h : hposAt g (t + 1) = 0) :
    scanlineAt g (t + 1) = (scanlineAt g t + 1) % g.lpf.toNat := by
  rw [scanlineAt, Nat.succ_div, if_pos (Nat.dvd_of_mod_eq_zero h), ← Nat.mod_add_mod]
  rfl

theorem scanlineAt_succ_of_in_line {g : Geometry} {t : Nat} (h : hposAt g (t + 1) ≠ 0) :
    scanlineAt g (t + 1) = scanlineAt g t := by
  rw [scanlineAt, Nat.succ_div, if_neg (mt Nat.mod_eq_zero_of_dvd h)]
  rfl

/-- The frame stands at the start of line c exactly when its two digits are c and 0. -/
theorem mod_framePeriod_eq_iff {g : Geometry} (hg : g.Legal) (t c : Nat) :
    t % framePeriod g = c * g.cpl.toNat ↔ hposAt g t = 0 ∧ scanlineAt g t = c := by
  have hcpl : 0 < g.cpl.toNat := hg.1
  rw [← scanlineAt_mul_add_hposAt]
  constructor
  · intro h
    have hpos : hposAt g t = 0 := by
      simpa [Nat.mod_eq_of_lt (hposAt_lt hg t)] using congrArg (· % g.cpl.toNat) h
    rw [hpos, Nat.add_zero] at h
    exact ⟨hpos, Nat.eq_of_mul_eq_mul_right hcpl h⟩
  · rintro ⟨hpos, rfl⟩
    rw [hpos, Nat.add_zero]

/-! ### Windows -/

section
variable {x ws we m : Nat}

theorem inWindow_iff : inWindow x ws we = true ↔ if ws ≤ we then ws ≤ x ∧ x < we else x ≥ ws ∨ x < we := by
  unfold inWindow
  split_ifs <;> simp

/-- Only the boundaries' places on the cycle of length m count, where these differ: a window that ends at m wraps to 0,
and one that starts at m starts at 0. -/
theorem inWindow_mod (hx : x < m) (hs : ws ≤ m) (he : we ≤ m) (hne : ws % m ≠ we % m) :
    inWindow x (ws % m) (we % m) = inWindow x ws we := by
  rw [Bool.eq_iff_iff, inWindow_iff, inWindow_iff]
  obtain hs | rfl := hs.lt_or_eq <;> obtain he | rfl := he.lt_or_eq
  · rw [Nat.mod_eq_of_lt hs, Nat.mod_eq_of_lt he]
  · rw [Nat.mod_eq_of_lt hs, Nat.mod_self] at *
    split_ifs <;> omega
  · rw [Nat.mod_eq_of_lt he, Nat.mod_self] at *
    split_ifs <;> omega
  · exact absurd rfl hne

/-- On a cycle of length m a window with two different boundaries is entered exactly at its start and left exactly at its
end (R218). -/
theorem inWindow_edges (hx : x < m) (hs : ws ≤ m) (he : we ≤ m) (hne : ws % m ≠ we % m) :
    (inWindow x ws we = false ∧ inWindow ((x + 1) % m) ws we = true ↔ (x + 1) % m = ws % m) ∧
    (inWindow x ws we = true ∧ inWindow ((x + 1) % m) ws we = false ↔ (x + 1) % m = we % m) := by
  have hm : 0 < m := Nat.zero_lt_of_lt hx
  have hs' := Nat.mod_lt ws hm
  have he' := Nat.mod_lt we hm
  rw [← inWindow_mod hx hs he hne, ← inWindow_mod (Nat.mod_lt _ hm) hs he hne]
  generalize ws % m = a at *
  generalize we % m = b at *
  have hnext : (x + 1) % m = x + 1 ∧ x + 1 < m ∨ (x + 1) % m = 0 ∧ x + 1 = m := by
    obtain h | h := Nat.lt_or_eq_of_le (Nat.succ_le_of_lt hx)
    · exact .inl ⟨Nat.mod_eq_of_lt h, h⟩
    · exact .inr ⟨h ▸ Nat.mod_self _, h⟩
  simp only [Bool.eq_false_iff, ne_eq, inWindow_iff]
  split_ifs <;> omega

end

section
variable {x : Nat} {ws we m : Word32} (hx : x < m.toNat)
include hx

/-- A window without a width, and one from the end of the cycle to its start, is empty. -/
theorem inWindow_eq_false (h : ws = we ∨ (ws = m ∧ we = 0)) : inWindow x ws.toNat we.toNat = false := by
  rw [Bool.eq_false_iff, ne_eq, inWindow_iff]
  obtain rfl | ⟨rfl, rfl⟩ := h
  · rw [if_pos le_rfl]
    omega
  · have hzero : (0 : Word32).toNat = 0 := rfl
    split_ifs <;> omega

/-- The window from the start of the cycle to its end is full. -/
theorem inWindow_eq_true (h : ws = 0 ∧ we = m) : inWindow x ws.toNat we.toNat = true := by
  obtain ⟨rfl, rfl⟩ := h
  simp [inWindow, hx]

end

/-- Settles O33: the position moves along the cyclic line at every cycle, the scanline along the cyclic frame where a
line starts; each blank has the edges of its window. -/
theorem blankTransitions : Obligations.BlankTransitions := by
  intro g t hg
  have ⟨_, _, hhbs, hhbe, hvbs, hvbe⟩ := hg
  have hline := scanlineAt_lt hg t
  have hpos := hposAt_lt hg t
  refine ⟨fun hne => ?_, fun hne => ?_, inWindow_eq_false hline, inWindow_eq_true hline, inWindow_eq_false hpos,
    inWindow_eq_true hpos⟩
  · rw [mod_framePeriod_eq_iff hg, mod_framePeriod_eq_iff hg, isVblank, isVblank]
    by_cases hstart : hposAt g (t + 1) = 0
    · simpa only [scanlineAt_succ_of_line_start hstart, hstart, true_and] using inWindow_edges hline hvbs hvbe hne
    · simp [scanlineAt_succ_of_in_line hstart, hstart]
  · have hedges := inWindow_edges hpos hhbs hhbe hne
    rwa [← hposAt_succ] at hedges

/-! ### The line bit -/

theorem lineBit_eq (g : Geometry) (n t : Nat) : lineBit g n t = decide (scanlineAt g t / 2 ^ n % 2 = 1) :=
  Nat.testBit_eq_decide_div_mod_eq

/-- The response of a line bit is the bit as a number. -/
theorem boolWord_lineBit (g : Geometry) (n t : Nat) :
    boolWord (lineBit g n t) = BitVec.ofNat 64 (scanlineAt g t / 2 ^ n % 2) := by
  rw [lineBit_eq]
  obtain h | h := Nat.mod_two_eq_zero_or_one (scanlineAt g t / 2 ^ n) <;> rw [h] <;> rfl

end Sys2Proof.Machine

namespace Sys2Proof

open Machine in
/-- Settles O34: the scanline is at most LPF - 1, so no bit of it stands at or above that number's bit length. -/
theorem lineBit : Obligations.LineBit := by
  intro g n t
  refine ⟨by rw [lineBit_eq, decide_eq_true_iff], fun hg hn => Nat.testBit_lt_two_pow ?_⟩
  exact lt_of_le_of_lt (Nat.le_sub_one_of_lt (scanlineAt_lt hg t)) hn

end Sys2Proof

namespace Sys2Proof.Machine

/-! ### The queries -/

/-- Any function that R213 describes is `in_window`. -/
theorem eq_inWindow {win : Nat → Nat → Nat → Bool}
    (h : ∀ x ws we, win x ws we = true ↔ if ws ≤ we then ws ≤ x ∧ x < we else x ≥ ws ∨ x < we) : win = inWindow := by
  funext x ws we
  rw [Bool.eq_iff_iff, h, inWindow_iff]

/-- A composite blank is a vertical blank outside the horizontal one (R216). -/
theorem boolWord_isCblank (g : Geometry) (t : Nat) :
    boolWord (isCblank g t) = if isVblank g t ∧ isHblank g t = false then 1 else 0 := by
  simp [boolWord, isCblank]

/-- Settles O31: each query responds its function of the geometry at the query's time. -/
theorem rasterQueries : Obligations.RasterQueries := by
  rintro s g now t n T win hp hg rfl hwin
  obtain rfl := eq_inWindow hwin
  have hquery {f : Geometry → Word64} {v : Word64} (hv : f g = v) : rasterQuery s f = .next (respond v s) :=
    hv ▸ rasterQuery_of_run hp hg f
  exact ⟨inPhase_of_mem (halted_of_run hp) (by simp [hp]), hquery rfl, hquery rfl, hquery rfl, hquery rfl,
    hquery (boolWord_isCblank g _), hquery (boolWord_lineBit g _ _)⟩

end Sys2Proof.Machine

/-! ## The scheduler

The outcomes of SCHED_AFTER and SCHED_PERIODIC one by one, which event a pump picks, what it does to that event, and
what a command may do to the queue while a callback runs (44_scheduler.md). -/

namespace Sys2Proof.Machine

/-! ### Arming -/

section
variable {s : State} (hp : s.phase = .config ∨ s.phase = .run) {d : Word64} (tag : Word32)
include hp

/-- The scheduler's commands are accepted in every phase that takes commands (R247). -/
theorem inPhase_config_run (body : Result) : inPhase [.config, .run] s body = body :=
  inPhase_of_mem (halted_eq_false_iff.2 hp) (by simpa using hp)

theorem exec_schedAfter : exec (.schedAfter d tag) s = schedule d none tag s :=
  inPhase_config_run hp _

theorem exec_schedPeriodic (hd : d ≠ 0) : exec (.schedPeriodic d tag) s = schedule d (some d) tag s :=
  (inPhase_config_run hp _).trans (if_neg hd)

theorem exec_schedPeriodic_zero : exec (.schedPeriodic 0 tag) s = .next (afterFault .periodZero s) :=
  inPhase_config_run hp _

/-- Past the check of the period the two commands share their lines. -/
theorem exec_sched {i : Instr} (hi : i = .schedAfter d tag ∨ (i = .schedPeriodic d tag ∧ d ≠ 0)) :
    ∃ period, exec i s = schedule d period tag s := by
  obtain rfl | ⟨rfl, hd⟩ := hi
  · exact ⟨_, exec_schedAfter hp tag⟩
  · exact ⟨_, exec_schedPeriodic hp tag hd⟩

end

section
variable {s : State} {d : Word64} (period : Option Word64) (tag : Word32)

theorem schedule_timeOverflow (ht : 2 ^ 64 ≤ s.elapsed.toNat + d.toNat) :
    schedule d period tag s = .next (afterFault .timeOverflow s) :=
  if_pos ht

variable (ht : s.elapsed.toNat + d.toNat < 2 ^ 64)
include ht

theorem schedule_queueFull (hq : s.queue.length = s.params.maxEvents) :
    schedule d period tag s = .next (afterFault .queueFull s) := by
  rw [schedule, if_neg (not_le.2 ht), if_pos hq, raiseFault_eq]

variable (hq : s.queue.length ≠ s.params.maxEvents)
include hq

theorem schedule_idSpent (hid : s.nextId = 0) : schedule d period tag s = .next (afterFault .idExhausted s) := by
  rw [schedule, if_neg (not_le.2 ht), if_neg hq, allocId, if_pos hid]
  rfl

theorem schedule_seqSpent (hid : s.nextId ≠ 0) (hseq : s.nextSeq = BitVec.allOnes 64) :
    schedule d period tag s = .next (afterFault .idExhausted { s with nextId := s.nextId + 1 }) := by
  rw [schedule, if_neg (not_le.2 ht), if_neg hq, allocId, if_neg hid]
  simp only [arm, if_pos hseq, raiseFault_eq]

theorem schedule_arms (hid : s.nextId ≠ 0) (hseq : s.nextSeq ≠ BitVec.allOnes 64)
    (hfresh : ∀ e ∈ s.queue, e.id ≠ s.nextId) :
    schedule d period tag s = .next { s with
      queue := s.queue ++ [⟨s.nextId, s.elapsed + d, period, tag, s.nextSeq, s.ctx == .callback⟩]
      nextId := s.nextId + 1, nextSeq := s.nextSeq + 1
      responses := s.responses ++ [s.nextId.setWidth 64] } := by
  rw [schedule, if_neg (not_le.2 ht), if_neg hq, allocId, if_neg hid, ← putEvent_of_not_mem hfresh]
  simp only [arm, if_neg hseq]
  rfl

end

/-- Settles O36: past the checks both commands come to `arm`, and no event has the next id. -/
theorem scheduleArms : Obligations.ScheduleArms := by
  intro s d tag hp ht hq hid hseq hfresh
  exact ⟨(exec_schedAfter hp tag).trans (schedule_arms _ tag ht hq hid hseq hfresh),
    fun hd => (exec_schedPeriodic hp tag hd).trans (schedule_arms _ tag ht hq hid hseq hfresh)⟩

/-- Settles O37: one rule per check, in their order. -/
theorem scheduleChecks : Obligations.ScheduleChecks := by
  intro s d tag hp
  refine ⟨exec_schedPeriodic_zero hp tag, fun i hi => ?_⟩
  obtain ⟨period, hexec⟩ := exec_sched hp tag hi
  rw [hexec]
  exact ⟨schedule_timeOverflow period tag, fun ht => ⟨schedule_queueFull period tag ht,
    fun hq => ⟨schedule_idSpent period tag ht hq, schedule_seqSpent period tag ht hq⟩⟩⟩

/-! ### Cancelling -/

theorem removeEvent_of_not_mem {id : Word32} {q : List Event} (h : ∀ e ∈ q, e.id ≠ id) : removeEvent id q = q :=
  List.filter_eq_self.2 fun e he => bne_iff_ne.2 (h e he)

/-- In a legal queue an id names one event, so removing the id removes that event alone. -/
theorem QueueLegal.removeEvent_eq_erase {m : Nat} {q : List Event} {nextId : Word32} {nextSeq : Word64}
    (h : QueueLegal m q nextId nextSeq) {e : Event} (he : e ∈ q) : removeEvent e.id q = q.erase e := by
  rw [h.ids.of_map.erase_eq_filter]
  refine List.filter_congr fun x hx => ?_
  rw [Bool.eq_iff_iff, bne_iff_ne, bne_iff_ne]
  exact not_congr ⟨h.eq_of_id hx he, congrArg Event.id⟩

theorem encode_cancel (id : Word32) : encode (.cancel id) = (0x00000032, [id.setWidth 64]) := by
  have hword : (Instr.cancel id).header.word = 0x00000032 :=
    (congrArg Header.word (Laws.headerOf_byte .cancel)).symm.trans (Laws.word_headerOf _)
  rw [encode, hword, Instr.operands]

theorem exec_cancel {s : State} (hp : s.phase = .config ∨ s.phase = .run) (id : Word32) :
    exec (.cancel id) s = .next { s with queue := removeEvent id s.queue } :=
  inPhase_config_run hp _

/-- Settles O38: removing an id leaves a queue without it as it is, and erases its one event from a legal queue. -/
theorem cancelRemoves : Obligations.CancelRemoves := by
  intro s id hp
  refine ⟨encode_cancel id, exec_cancel hp id, fun hno => ?_, fun h e he hid t ht => ?_⟩
  · rw [exec_cancel hp, removeEvent_of_not_mem hno]
  · subst hid
    rw [exec_cancel hp, h.queueLegal.removeEvent_eq_erase he] at ht
    cases ht
    exact ⟨List.length_erase_add_one he,
      fun e' => (h.queueLegal.ids.of_map.mem_erase_iff).trans and_comm⟩

/-! ### The pick -/

theorem isDue_iff {s : State} {e : Event} :
    isDue s e = true ↔ e.defer = false ∧ e.deadline.toNat ≤ s.elapsed.toNat := by
  simp [isDue]

theorem mem_dueEvents {s : State} {e : Event} :
    e ∈ dueEvents s ↔ e ∈ s.queue ∧ e.defer = false ∧ e.deadline.toNat ≤ s.elapsed.toNat := by
  rw [dueEvents, List.mem_filter, isDue_iff]

theorem dueEvents_eq_nil_iff {s : State} : dueEvents s = [] ↔ ∀ e ∈ s.queue, isDue s e = false := by
  simp [dueEvents]

/-- `leastDeadline` is the minimum of the deadlines. -/
theorem min?_deadlines {es : List Event} (h : es ≠ []) :
    (es.map (·.deadline.toNat)).min? = some (leastDeadline es) := by
  cases es with
  | nil => contradiction
  | cons e es => rw [List.map_cons, List.min?_cons', List.foldl_map, leastDeadline]

theorem mem_earliest_iff {e : Event} {es : List Event} :
    e ∈ earliest es ↔ e ∈ es ∧ ∀ x ∈ es, e.deadline.toNat ≤ x.deadline.toNat := by
  rw [earliest, List.mem_filter, beq_iff_eq]
  refine and_congr_right fun he => ?_
  obtain ⟨hmem, hle⟩ := List.min?_eq_some_iff.1 (min?_deadlines (List.ne_nil_of_mem he))
  obtain ⟨x, hx, hxd⟩ := List.mem_map.1 hmem
  have hle := List.forall_mem_map.1 hle
  exact ⟨fun h => h ▸ hle, fun h => le_antisymm (hxd ▸ h x hx) (hle e he)⟩

theorem earliest_eq_nil_iff {es : List Event} : earliest es = [] ↔ es = [] := by
  refine ⟨fun h => ?_, by rintro rfl; rfl⟩
  by_contra hne
  obtain ⟨e, he, hd⟩ := List.mem_map.1 (List.min?_mem (min?_deadlines hne))
  have hmem : e ∈ earliest es := List.mem_filter.2 ⟨he, beq_iff_eq.2 hd⟩
  exact List.not_mem_nil (h ▸ hmem)

/-- `leastSeq` is the library's least element under a function. -/
theorem leastSeq_eq_argmin (es : List Event) : leastSeq es = es.argmin (·.seq.toNat) := by
  cases es with
  | nil => rfl
  | cons e es => exact (List.foldl_hom some fun _ _ => (apply_ite some _ _ _).symm).symm


/-- What is picked is one of the earliest due events, and under Fifo has the least seq of them. -/
theorem mem_earliest_of_pickDue {s : State} {e : Event} (h : pickDue s = some e) :
    e ∈ earliest (dueEvents s) ∧
      (s.params.tieOrder = .fifo → ∀ x ∈ earliest (dueEvents s), e.seq.toNat ≤ x.seq.toNat) := by
  unfold pickDue at h
  split at h
  · refine ⟨leastSeq_mem h, fun _ x hx => ?_⟩
    rw [leastSeq_eq_argmin] at h
    exact List.le_of_mem_argmin (f := (·.seq.toNat)) hx h
  · rename_i hany
    exact ⟨List.mem_of_getElem? h, fun hfifo => nomatch hany.symm.trans hfifo⟩

theorem pickDue_eq_none_iff {s : State} : pickDue s = none ↔ ∀ e ∈ s.queue, isDue s e = false := by
  rw [← dueEvents_eq_nil_iff, ← earliest_eq_nil_iff]
  unfold pickDue
  split
  · rw [leastSeq_eq_argmin, List.argmin_eq_none]
  · generalize earliest (dueEvents s) = es
    cases es with
    | nil => simp
    | cons e es => simpa using Nat.mod_lt _ (Nat.succ_pos _)

/-- The picked event is the one that fires next (R256). -/
theorem firesNext_of_pickDue {s : State} {e : Event} (h : pickDue s = some e) : FiresNext s e := by
  obtain ⟨hmem, hseq⟩ := mem_earliest_of_pickDue h
  obtain ⟨hdue, hleast⟩ := mem_earliest_iff.1 hmem
  obtain ⟨hq, hd, ht⟩ := mem_dueEvents.1 hdue
  refine ⟨hq, hd, ht, fun x hx hxd hxt => ?_⟩
  have hxdue := mem_dueEvents.2 ⟨hx, hxd, hxt⟩
  obtain hlt | heq := lt_or_eq_of_le (hleast x hxdue)
  · exact .inl hlt
  · refine .inr ⟨BitVec.eq_of_toNat_eq heq, fun hfifo => hseq hfifo x (mem_earliest_iff.2 ⟨hxdue, ?_⟩)⟩
    exact heq ▸ hleast

theorem exists_pickDue {s : State} {e : Event} (he : e ∈ s.queue) (hdue : isDue s e = true) :
    ∃ e', pickDue s = some e' := by
  refine Option.ne_none_iff_exists'.1 fun hnone => ?_
  rw [pickDue_eq_none_iff.1 hnone e he] at hdue
  cases hdue

/-- Under Fifo only one event of a legal queue fires next: its seq is its own. -/
theorem FiresNext.unique {s : State} {nextId : Word32} {nextSeq : Word64} {m : Nat} {e e' : Event}
    (hq : QueueLegal m s.queue nextId nextSeq) (hfifo : s.params.tieOrder = .fifo) (h : FiresNext s e)
    (h' : FiresNext s e') : e' = e := by
  obtain ⟨hmem, hd, ht, hnext⟩ := h
  obtain ⟨hmem', hd', ht', hnext'⟩ := h'
  have hle : e.deadline.toNat < e'.deadline.toNat ∨ (e.deadline = e'.deadline ∧ e.seq.toNat ≤ e'.seq.toNat) :=
    (hnext e' hmem' hd' ht').imp_right fun ⟨hd, hs⟩ => ⟨hd, hs hfifo⟩
  have hge : e'.deadline.toNat < e.deadline.toNat ∨ (e'.deadline = e.deadline ∧ e'.seq.toNat ≤ e.seq.toNat) :=
    (hnext' e hmem hd ht).imp_right fun ⟨hd, hs⟩ => ⟨hd, hs hfifo⟩
  have hseq : e'.seq.toNat = e.seq.toNat := by bv_omega
  exact List.inj_on_of_nodup_map hq.seqs hmem' hmem (BitVec.eq_of_toNat_eq hseq)

/-! ### Firing -/

theorem eq_of_mem_putEvent {e x : Event} {q : List Event} (h : x ∈ putEvent e q) (hid : x.id = e.id) : x = e := by
  by_cases hmem : ∃ y ∈ q, y.id = e.id
  · rw [putEvent_of_mem hmem] at h
    obtain ⟨y, -, rfl⟩ := List.mem_map.1 h
    split_ifs at hid ⊢
    · rfl
    · contradiction
  · push Not at hmem
    rw [putEvent_of_not_mem hmem] at h
    obtain hx | hx := List.mem_append.1 h
    · exact absurd hid (hmem x hx)
    · exact List.mem_singleton.1 hx

theorem mem_putEvent_of_ne {e x : Event} {q : List Event} (hx : x ∈ q) (hid : x.id ≠ e.id) : x ∈ putEvent e q := by
  by_cases hmem : ∃ y ∈ q, y.id = e.id
  · rw [putEvent_of_mem hmem]
    exact List.mem_map.2 ⟨x, hx, if_neg hid⟩
  · push Not at hmem
    rw [putEvent_of_not_mem hmem]
    exact List.mem_append_left _ hx

/-- A re-arm first moves the deadline of the event in its place (R251). -/
theorem putEvent_deadline {e : Event} {q : List Event} (he : e ∈ q) (deadline : Word64) :
    putEvent { e with deadline := deadline } q =
      q.map fun x => if x.id = e.id then { e with deadline := deadline } else x :=
  putEvent_of_mem ⟨e, he, rfl⟩

/-- Then it arms the event, which stays in its place (R251). -/
theorem putEvent_rearm {e : Event} {q : List Event} (he : e ∈ q) (deadline seq : Word64) (defer : Bool) :
    putEvent { e with deadline := deadline, seq := seq, defer := defer } (putEvent { e with deadline := deadline } q) =
      q.map fun x => if x.id = e.id then { e with deadline := deadline, seq := seq, defer := defer } else x := by
  have hmem : ∃ x ∈ putEvent { e with deadline := deadline } q, x.id = e.id := ⟨_, mem_putEvent_self _ q, rfl⟩
  refine (putEvent_of_mem (e := { e with deadline := deadline, seq := seq, defer := defer }) hmem).trans ?_
  rw [putEvent_deadline he, List.map_map]
  refine List.map_congr_left fun x _ => ?_
  by_cases hx : x.id = e.id <;> simp [hx]

/-- What stands in the queue under the id of a periodic event that has fired (R251). -/
theorem eq_of_mem_fireEvent {e x : Event} {p : Word64} {s s' : State} (hp : e.period = some p)
    (h : fireEvent e s = .ok s') (hx : x ∈ s'.queue) (hid : x.id = e.id) :
    x = { e with deadline := e.deadline + p, seq := s.nextSeq, defer := s.ctx == .callback } := by
  obtain ⟨hnone, -⟩ | ⟨_, -, -, hr⟩ | ⟨_, -, -, -, hr⟩ | ⟨p', hp', -, -, hr⟩ := fireEvent_cases h
  · exact nomatch hp.symm.trans hnone
  · cases hr
  · cases hr
  · obtain rfl := Option.some.inj (hp.symm.trans hp')
    cases hr
    exact eq_of_mem_putEvent hx hid

/-- Settles O41: what is picked fires next, and a re-armed event has the next sequence number. -/
theorem pickOrder : Obligations.PickOrder := by
  refine ⟨fun s => ⟨pickDue_eq_none_iff, fun e he => ?_⟩, fun e p s s' hp hf x hx hid => ?_⟩
  · obtain ⟨hmem, hd, ht, hnext⟩ := firesNext_of_pickDue he
    exact ⟨hmem, hd, ht, fun x hx hdue => hnext x hx (isDue_iff.1 hdue).1 (isDue_iff.1 hdue).2⟩
  · rw [eq_of_mem_fireEvent hp hf hx hid]

/-! ### STEP -/

/-- A STEP at Top whose sum stays below 2^64 starts a pump at its end (R250). -/
theorem exec_step {s : State} {c : Word64} (hp : s.phase = .run) (hctx : s.ctx = .top)
    (hc : s.elapsed.toNat + c.toNat < 2 ^ 64) :
    exec (.step c) s = pumpContinue (pumpStart { s with elapsed := s.elapsed + c }) := by
  refine (inPhase_of_mem (halted_of_run hp) (List.mem_singleton.2 hp)).trans ?_
  rw [if_neg (not_not.2 hctx), if_neg (not_le.2 hc)]

theorem exec_step_timeOverflow {s : State} {c : Word64} (hp : s.phase = .run) (hctx : s.ctx = .top)
    (hc : 2 ^ 64 ≤ s.elapsed.toNat + c.toNat) : exec (.step c) s = .next (afterFault .timeOverflow s) := by
  refine (inPhase_of_mem (halted_of_run hp) (List.mem_singleton.2 hp)).trans ?_
  rw [if_neg (not_not.2 hctx), if_pos hc, raiseFault_eq]

theorem pumpContinue_of_not_due {s : State} (h : ∀ e ∈ s.queue, isDue s e = false) :
    pumpContinue s = .next { s with pumping := false } := by
  rw [pumpContinue, pickDue_eq_none_iff.2 h]

/-- Settles O39: with every deadline after the end of the STEP the pump finds nothing due. -/
theorem stepAdvancesTime : Obligations.StepAdvancesTime := by
  intro s c hp hctx
  refine ⟨exec_step_timeOverflow hp hctx, fun hc hlate => ?_⟩
  rw [exec_step hp hctx hc]
  refine pumpContinue_of_not_due (List.forall_mem_map.2 fun e he => ?_)
  refine Bool.eq_false_iff.2 fun hdue => absurd (isDue_iff.1 hdue).2 (not_le.2 ?_)
  rw [pumpStart_elapsed, BitVec.toNat_add_of_lt hc]
  exact hlate e he

theorem afterPick_eq_afterTieDraw (s : State) : afterPick s = afterTieDraw s := by
  unfold afterPick afterTieDraw
  split <;> simp [*]

/-- What the pump does to the picked event is `afterFiring`. A re-arm outside context Callback leaves the defer bit
clear, as it was. -/
theorem PumpEffect.eq_afterFiring {s t : State} {e : Event} (h : PumpEffect s t) (hpick : pickDue s = some e)
    (hctx : s.ctx ≠ .callback) : t = afterFiring e (afterTieDraw s) := by
  obtain ⟨he, hd, -⟩ := pickDue_mem hpick
  have hdefer : (s.ctx == .callback) = e.defer := by simpa [hd] using hctx
  rw [← afterPick_eq_afterTieDraw]
  cases h with
  | ends hnone => exact nomatch hnone.symm.trans hpick
  | oneShot he' hp =>
    obtain rfl := Option.some.inj (hpick.symm.trans he')
    simp only [afterFiring, hp, afterPick_queue]
    rfl
  | rearm he' hp ht hn =>
    obtain rfl := Option.some.inj (hpick.symm.trans he')
    rw [putEvent_rearm he, hdefer]
    simp only [afterFiring, hp, if_neg (not_le.2 ht), afterPick_nextSeq, if_neg hn, afterPick_queue]
    rfl
  | overflow he' hp ht =>
    obtain rfl := Option.some.inj (hpick.symm.trans he')
    simp only [afterFiring, hp, if_pos ht]
    rfl
  | seqSpent he' hp ht hn =>
    obtain rfl := Option.some.inj (hpick.symm.trans he')
    rw [putEvent_deadline he]
    simp only [afterFiring, hp, if_neg (not_le.2 ht), afterPick_nextSeq, if_pos hn, afterPick_queue]
    rfl

/-- The pump fires the picked event (R251). -/
theorem pumpContinue_of_pick {s : State} {e : Event} (hpick : pickDue s = some e) (hctx : s.ctx ≠ .callback) :
    pumpContinue s = .next (afterFiring e (afterTieDraw s)) := by
  obtain ⟨t, ht⟩ := pumpContinue_advances s
  rw [ht, (pumpContinue_effect ht).eq_afterFiring hpick hctx]

/-- Settles O40: the STEP's pump has an event to pick, and fires it. -/
theorem stepFiresEarliest : Obligations.StepFiresEarliest := by
  intro s u c h hp hctx hc ⟨e, he, hdue⟩ hu
  have hu : u = pumpStart { s with elapsed := s.elapsed + c } := hu
  have hq : QueueLegal s.params.maxEvents u.queue s.nextId s.nextSeq := hu ▸ h.queueLegal.clearDefer
  obtain ⟨e', hpick⟩ : ∃ e', pickDue u = some e' := by
    refine exists_pickDue (e := { e with defer := false }) (hu ▸ List.mem_map.2 ⟨e, he, rfl⟩) (isDue_iff.2 ⟨rfl, ?_⟩)
    rw [hu, pumpStart_elapsed, BitVec.toNat_add_of_lt hc]
    exact hdue
  have hnext := firesNext_of_pickDue hpick
  refine ⟨e', hnext, ?_, fun hfifo e'' h'' => hnext.unique hq (by simpa [hu] using hfifo) h''⟩
  rw [exec_step hp hctx hc, ← hu]
  exact pumpContinue_of_pick hpick (by simp [hu, hctx])

/-! ### The queue while a callback runs -/

/-- What a command may make of the queue while a callback runs: remove events, or arm a deferred one (R245, R257). -/
def CallbackQueue (q q' : List Event) : Prop :=
  q'.Sublist q ∨ ∃ e, e.defer = true ∧ q' = putEvent e q

theorem callbackQueue_of_eq {q q' : List Event} (h : q' = q) : CallbackQueue q q' :=
  .inl (h ▸ .refl q)

/-- From s to t the callback goes on, the time is kept, and only deferred events are armed. -/
structure InCallback (s t : State) : Prop where
  ctx : t.ctx = .callback
  elapsed : t.elapsed = s.elapsed
  queue : CallbackQueue s.queue t.queue

/-- In context Callback every command but HRET goes on with the callback (46_invocation.md R303). -/
theorem Effect.inCallback {i : Instr} {s t : State} (h : Effect i s t) (hctx : s.ctx = .callback)
    (hi : ∀ d, i ≠ .hret d) : InCallback s t := by
  have atTop {P : Prop} (htop : s.ctx = .top) : P := nomatch hctx.symm.trans htop
  cases h with
  | fault | configError | cfgGeometry | cfgBank | cfgPortunit | regPort | start | answer | scheduleSpent =>
    exact ⟨by simpa using hctx, by simp, callbackQueue_of_eq (by simp)⟩
  | regRange => rw [addDirs_eq]; exact ⟨hctx, rfl, callbackQueue_of_eq rfl⟩
  | read _ _ _ ha | readUnmapped _ _ _ ha => exact atTop ha.2.1
  | write _ _ _ _ ha | writeUnmapped _ _ _ _ ha | writeCell _ _ _ _ ha => exact atTop ha.2.1
  | step _ _ htop => exact atTop htop
  | schedule => exact ⟨hctx, rfl, .inr ⟨_, by simp [hctx], rfl⟩⟩
  | cancel => exact ⟨hctx, rfl, .inl List.filter_sublist⟩
  | bankSelect _ _ h =>
    rw [Selects.eq_withBanks (.single h)]
    exact ⟨hctx, rfl, callbackQueue_of_eq rfl⟩
  | hretRead d | hretWrite d | hretPump d => exact absurd rfl (hi d)

/-- A new event in the queue is the deferred one. -/
theorem CallbackQueue.defer_of_new {q q' : List Event} (h : CallbackQueue q q') {e : Event} (he : e ∈ q')
    (hnew : e ∉ q) : e.defer = true := by
  obtain hsub | ⟨e', hd, rfl⟩ := h
  · exact absurd (hsub.subset he) hnew
  · obtain rfl | he := mem_putEvent he
    · exact hd
    · exact absurd he hnew

/-! ### Deferred events -/

/-- The callback a pump invokes is that of an event in the queue that was not deferred. -/
theorem PumpEffect.fired {s t : State} (h : PumpEffect s t) {tag id : Word32}
    (htrace : t.trace = s.trace ++ [.invCallback tag id]) :
    ∃ e ∈ s.queue, e.id = id ∧ e.tag = tag ∧ e.defer = false := by
  have of_pick {e : Event} (he : pickDue s = some e)
      (htrace : s.trace ++ [TraceRec.invCallback e.tag e.id] = s.trace ++ [.invCallback tag id]) :
      ∃ e ∈ s.queue, e.id = id ∧ e.tag = tag ∧ e.defer = false := by
    obtain ⟨hmem, hd, -⟩ := pickDue_mem he
    simp only [List.append_cancel_left_eq, List.cons.injEq, TraceRec.invCallback.injEq, and_true] at htrace
    obtain ⟨htag, hid⟩ := htrace
    exact ⟨e, hmem, hid, htag, hd⟩
  cases h with
  | ends => simp at htrace
  | oneShot he => exact of_pick he (by simpa using htrace)
  | rearm he => exact of_pick he (by simpa using htrace)
  | overflow => simp at htrace
  | seqSpent => simp at htrace

/-- The event a pump fires is not deferred, so every deferred one stays as it is. -/
theorem PumpEffect.mem_of_defer {s t : State} (h : PumpEffect s t) {m : Nat} {nextId : Word32} {nextSeq : Word64}
    (hq : QueueLegal m s.queue nextId nextSeq) {x : Event} (hx : x ∈ s.queue) (hd : x.defer = true) : x ∈ t.queue := by
  have ne_of_pick {e : Event} (he : pickDue s = some e) : x.id ≠ e.id := by
    obtain ⟨hmem, hde, -⟩ := pickDue_mem he
    intro hid
    rw [hq.eq_of_id hx hmem hid, hde] at hd
    cases hd
  cases h with
  | ends => exact hx
  | oneShot he => exact List.mem_filter.2 ⟨hx, bne_iff_ne.2 (ne_of_pick he)⟩
  | rearm he =>
    have hne := ne_of_pick he
    exact mem_putEvent_of_ne (mem_putEvent_of_ne hx hne) hne
  | overflow => simpa using hx
  | seqSpent he =>
    have hne := ne_of_pick he
    exact mem_putEvent_of_ne hx hne

/-- An HRET leaves the deferred events alone: a handler's answer keeps the queue, and a pump fires no deferred event. -/
theorem exec_hret_mem_of_defer {s t : State} {d : Byte} (h : Inv s) (hexec : exec (.hret d) s = .next t) {x : Event}
    (hx : x ∈ s.queue) (hd : x.defer = true) : x ∈ t.queue := by
  cases exec_effect hexec with
  | fault | configError | answer | scheduleSpent => simpa using hx
  | schedule _ _ _ hi => simp [Instr.opcode] at hi
  | hretRead _ _ _ _ hr => exact hr.queue_eq ▸ hx
  | hretWrite _ _ _ _ hw => exact hw.queue_eq ▸ hx
  | hretPump _ _ _ hpe => exact hpe.mem_of_defer h.queueLegal hx hd

/-- Settles O43: clause by clause. -/
theorem deferralRule : Obligations.DeferralRule := by
  refine ⟨fun i s t hexec hctx _ hi e he hnew => ?_, fun s t hpump tag id => (pumpContinue_effect hpump).fired,
    fun s t d h hexec e => exec_hret_mem_of_defer h hexec, fun s => List.forall_mem_map.2 fun _ _ => rfl,
    fun e p s s' hp hctx hf x hx hid => ?_⟩
  · have hd := ((exec_effect hexec).inCallback hctx hi).queue.defer_of_new he hnew
    exact ⟨hd, by simp [isDue, hd]⟩
  · rw [eq_of_mem_fireEvent hp hf hx hid]
    simp [hctx]

/-! ### The firings left -/

section
variable {now : Nat} {e : Event}

theorem eventFirings_of_defer (h : e.defer = true) : eventFirings now e = 0 :=
  if_pos (.inl h)

theorem eventFirings_of_late (h : now < e.deadline.toNat) : eventFirings now e = 0 :=
  if_pos (.inr h)

/-- A due event fires once, and a periodic one once more for every whole period since its deadline. -/
theorem eventFirings_oneShot (hd : e.defer = false) (ht : e.deadline.toNat ≤ now) (hp : e.period = none) :
    eventFirings now e = 1 := by
  simp [eventFirings, hd, hp, not_lt.2 ht]

theorem eventFirings_periodic (hd : e.defer = false) (ht : e.deadline.toNat ≤ now) {p : Word64}
    (hp : e.period = some p) : eventFirings now e = (now - e.deadline.toNat) / p.toNat + 1 := by
  simp [eventFirings, hd, hp, not_lt.2 ht]

/-- A re-arm takes one firing off: the deadline moves a whole period. -/
theorem eventFirings_rearm (hd : e.defer = false) (ht : e.deadline.toNat ≤ now) {p : Word64} (hp : e.period = some p)
    (h0 : p ≠ 0) (hsum : e.deadline.toNat + p.toNat < 2 ^ 64) (seq : Word64) (defer : Bool) :
    eventFirings now { e with deadline := e.deadline + p, seq := seq, defer := defer } < eventFirings now e := by
  rw [eventFirings_periodic hd ht hp]
  cases defer with
  | true => exact (eventFirings_of_defer rfl).trans_lt (Nat.succ_pos _)
  | false =>
    have hdl : (e.deadline + p).toNat = e.deadline.toNat + p.toNat := BitVec.toNat_add_of_lt hsum
    by_cases hlate : now < (e.deadline + p).toNat
    · exact (eventFirings_of_late hlate).trans_lt (Nat.succ_pos _)
    · have hpos : 0 < p.toNat := by bv_omega
      have hsub : now - e.deadline.toNat = now - (e.deadline + p).toNat + p.toNat := by omega
      have hfew := eventFirings_periodic (e := { e with deadline := e.deadline + p, seq := seq, defer := false }) rfl
        (not_lt.1 hlate) hp
      rw [hfew, hsub, Nat.add_div_right _ hpos]
      exact Nat.lt_succ_self _

end

/-- No command of a callback raises the firings left: removing events lowers them, and a deferred event has none. -/
theorem CallbackQueue.firings_le {q q' : List Event} (h : CallbackQueue q q') (now : Nat) :
    (q'.map (eventFirings now)).sum ≤ (q.map (eventFirings now)).sum := by
  obtain hsub | ⟨e, hd, rfl⟩ := h
  · exact (hsub.map _).sum_le_sum fun _ _ => Nat.zero_le _
  · by_cases hmem : ∃ x ∈ q, x.id = e.id
    · rw [putEvent_of_mem hmem, List.map_map]
      refine List.sum_le_sum fun x _ => ?_
      by_cases hx : x.id = e.id <;> simp [hx, eventFirings_of_defer hd]
    · push Not at hmem
      simp [putEvent_of_not_mem hmem, eventFirings_of_defer hd]

theorem InCallback.firingsLeft_le {s t : State} (h : InCallback s t) : firingsLeft t ≤ firingsLeft s := by
  rw [firingsLeft, firingsLeft, h.elapsed]
  exact h.queue.firings_le _

/-- With no event due no firing is left. -/
theorem firingsLeft_of_pickDue_none {s : State} (h : pickDue s = none) : firingsLeft s = 0 := by
  refine List.sum_eq_zero (List.forall_mem_map.2 fun e he => ?_)
  have hnot := pickDue_eq_none_iff.1 h e he
  cases hd : e.defer with
  | true => exact eventFirings_of_defer hd
  | false => exact eventFirings_of_late (by simpa [isDue, hd] using hnot)

/-- A pump that goes on in phase Run ends with no firing left, or fires and has fewer left (R252). -/
theorem PumpEffect.firings {s t : State} (h : PumpEffect s t) {m : Nat} {nextId : Word32} {nextSeq : Word64}
    (hq : QueueLegal m s.queue nextId nextSeq) (hctx : s.ctx = .top) (hp : t.phase = .run) :
    (t.ctx = .top ∧ t.pumping = false ∧ firingsLeft t = 0) ∨
      (t.ctx = .callback ∧ firingsLeft t < firingsLeft s) := by
  cases h with
  | ends hnone => exact .inl ⟨hctx, rfl, firingsLeft_of_pickDue_none (s := s) hnone⟩
  | @oneShot e he hper =>
    obtain ⟨hmem, hd, ht⟩ := pickDue_mem he
    refine .inr ⟨rfl, ?_⟩
    have hsum := List.sum_map_erase (eventFirings s.elapsed.toNat) hmem
    rw [eventFirings_oneShot hd ht hper] at hsum
    simp only [firingsLeft, invoke_queue, invoke_elapsed, afterPick_elapsed, hq.removeEvent_eq_erase hmem]
    omega
  | @rearm e p he hper hlt hn =>
    obtain ⟨hmem, hd, ht⟩ := pickDue_mem he
    have h0 : p ≠ 0 := fun h0 => hq.periods e hmem (h0 ▸ hper)
    have hfew := eventFirings_rearm hd ht hper h0 hlt
    refine .inr ⟨rfl, ?_⟩
    rw [putEvent_rearm hmem]
    simp only [firingsLeft, invoke_queue, invoke_elapsed, afterPick_elapsed, List.map_map]
    refine List.sum_lt_sum _ _ (fun x hx => ?_) ⟨e, hmem, by simpa using hfew _ _⟩
    by_cases hid : x.id = e.id
    · obtain rfl := hq.eq_of_id hx hmem hid
      simpa using (hfew _ _).le
    · simp [hid]
  | overflow => cases hp
  | seqSpent => cases hp

/-- HRET in a callback goes on with the pump (R302). -/
theorem exec_hret_callback {s : State} (h : Inv s) (hp : s.phase = .run) (hctx : s.ctx = .callback) (d : Byte) :
    exec (.hret d) s = pumpContinue (endInvocation s) := by
  obtain ⟨id, hk⟩ := h.ctxCallback.1 hctx
  refine (inPhase_of_mem (halted_of_run hp) (List.mem_singleton.2 hp)).trans ?_
  rw [if_neg (by simp [hctx]), hk]
  rfl

/-- A STEP that ends in phase Run has raised no fault: it came from Top and ran its pump (R250). -/
theorem pumpEffect_of_exec_step {s t : State} {c : Word64} (hexec : exec (.step c) s = .next t) (hp : t.phase = .run) :
    s.ctx = .top ∧ PumpEffect (pumpStart { s with elapsed := s.elapsed + c }) t := by
  cases exec_effect hexec with
  | fault | configError | scheduleSpent => cases hp
  | answer _ hi => simp [Instr.opcode, queryOpcodes] at hi
  | schedule _ _ _ hi => simp [Instr.opcode] at hi
  | step _ _ htop _ h => exact ⟨htop, h⟩

/-- Settles O42: a command of the callback raises no count, and a pump that goes on lowers it or ends. -/
theorem pumpTerminates : Obligations.PumpTerminates := by
  intro s t i h hp hexec hpt
  refine ⟨fun hctx hi => ?_, ?_, ?_⟩
  · have hin := (exec_effect hexec).inCallback hctx hi
    exact ⟨hin.ctx, hin.firingsLeft_le⟩
  · rintro hctx ⟨d, rfl⟩
    rw [exec_hret_callback h hp hctx] at hexec
    exact (pumpContinue_effect hexec).firings h.queueLegal rfl hpt
  · rintro c rfl
    obtain ⟨htop, hpump⟩ := pumpEffect_of_exec_step hexec hpt
    exact hpump.firings h.queueLegal.clearDefer htop hpt

end Sys2Proof.Machine

/-! ## Bank slots

A bank select moves the selector as its index and BANK_OOR say, whether BANK_SELECT makes it or a WRITE that a BANKSEL
range answers, and a BANK range then leads to the buffer selected (45_bank.md R281 to R286). -/

namespace Sys2Proof.Machine

theorem inPhase_run {s : State} (hp : s.phase = .run) (body : Result) : inPhase [.run] s body = body :=
  inPhase_of_mem (halted_of_run hp) (List.mem_singleton.2 hp)

theorem setBank_toNat (b : Sel) (k : Bank) (s : State) :
    setBank b.toNat k s = { s with banks := s.banks.set b.toNat (some k) b.isLt } := by
  have hbanks : s.banks.setIfInBounds b.toNat (some k) = s.banks.set b.toNat (some k) b.isLt :=
    Vector.ext fun i hi => by rw [Vector.getElem_setIfInBounds, Vector.getElem_set]
  rw [setBank, hbanks]

/-- Putting the record that stands into its slot changes nothing. -/
theorem setBank_self {s : State} {b : Nat} {k : Bank} (hk : bankAt s b = some k) : setBank b k s = s := by
  have hb := bankAt_lt hk
  have hget : s.banks[b] = some k := by simpa [bankAt, hb] using hk
  have hbanks : s.banks.setIfInBounds b (some k) = s.banks := by
    ext1 i hi
    rw [Vector.getElem_setIfInBounds]
    split_ifs with hbi
    · subst hbi
      exact hget.symm
    · rfl
  rw [setBank, hbanks]

/-! ### What a bank select does -/

section
variable {s : State} {b : Nat} {k : Bank} {x : Word16} (hk : bankAt s b = some k)
include hk

theorem bankSelect_of_lt (hx : x.toNat < k.n.toNat) : bankSelect b x s = .ok (setBank b { k with sel := x } s) := by
  rw [bankSelect, hk]
  exact if_pos hx

theorem bankSelect_of_fault (hx : k.n.toNat ≤ x.toNat) (ho : s.params.bankOor = .fault) :
    bankSelect b x s = .error (raiseFault .bankIndex s) := by
  rw [bankSelect, hk]
  simp only [if_neg (not_lt.2 hx), ho]

theorem bankSelect_of_modulo (hx : k.n.toNat ≤ x.toNat) (ho : s.params.bankOor = .modulo) :
    bankSelect b x s = .ok (setBank b { k with sel := x % k.n } s) := by
  rw [bankSelect, hk]
  simp only [if_neg (not_lt.2 hx), ho]

theorem bankSelect_of_ignore (hx : k.n.toNat ≤ x.toNat) (ho : s.params.bankOor = .ignore) :
    bankSelect b x s = .ok s := by
  rw [bankSelect, hk]
  simp only [if_neg (not_lt.2 hx), ho]

end

/-- y is the selector of a slot that held k after a select of index x that BANK_OOR = o lets go on
(45_bank.md R282). -/
def SelectorAfter (o : BankOor) (k : Bank) (x y : Word16) : Prop :=
  (x.toNat < k.n.toNat ∧ y = x) ∨ (k.n.toNat ≤ x.toNat ∧ o = .modulo ∧ y = x % k.n) ∨
    (k.n.toNat ≤ x.toNat ∧ o = .ignore ∧ y = k.sel)

/-- A select that goes on puts the new selector into its slot, be it the one that stands. -/
theorem SelectorAfter.bankSelect_eq {s : State} {b : Nat} {k : Bank} {x y : Word16}
    (h : SelectorAfter s.params.bankOor k x y) (hk : bankAt s b = some k) :
    bankSelect b x s = .ok (setBank b { k with sel := y } s) := by
  obtain ⟨hx, rfl⟩ | ⟨hx, ho, rfl⟩ | ⟨hx, ho, rfl⟩ := h
  · exact bankSelect_of_lt hk hx
  · exact bankSelect_of_modulo hk hx ho
  · rw [bankSelect_of_ignore hk hx ho, setBank_self hk]

/-! ### The bank commands -/

section
variable {s : State} {b : Sel}

theorem namedBank_of_lt (hb : b.toNat < s.params.numBanks) : namedBank s b = bankAt s b.toNat :=
  if_neg (not_le.2 hb)

theorem namedBank_eq_none (h : s.params.numBanks ≤ b.toNat ∨ bankAt s b.toNat = none) : namedBank s b = none := by
  obtain hb | hnone := h
  · exact if_pos hb
  · exact ite_eq_left_iff.2 fun _ => hnone

theorem exec_bankActive {k : Bank} (hp : s.phase = .run) (hn : namedBank s b = some k) :
    exec (.bankActive b) s = .next (respond (k.sel.setWidth 64) s) := by
  refine (inPhase_run hp _).trans ?_
  rw [hn]

theorem exec_bankActive_selector (hp : s.phase = .run) (hn : namedBank s b = none) :
    exec (.bankActive b) s = .next (afterFault .selector s) := by
  refine (inPhase_run hp _).trans ?_
  rw [hn, raiseFault_eq]

theorem exec_bankSelect_selector (hp : s.phase = .run) (hn : namedBank s b = none) (x : Word16) :
    exec (.bankSelect b x) s = .next (afterFault .selector s) := by
  refine (inPhase_run hp _).trans ?_
  rw [hn, raiseFault_eq]

variable {k : Bank} {x : Word16} (hp : s.phase = .run) (hn : namedBank s b = some k)
include hp hn

theorem exec_bankSelect_ok {t : State} (hsel : bankSelect b.toNat x s = .ok t) :
    exec (.bankSelect b x) s = .next t := by
  refine (inPhase_run hp _).trans ?_
  simp only [hn, hsel]

theorem exec_bankSelect_error {r : Result} (hsel : bankSelect b.toNat x s = .error r) :
    exec (.bankSelect b x) s = r := by
  refine (inPhase_run hp _).trans ?_
  simp only [hn, hsel]

end

/-! ### A WRITE that a BANKSEL range answers -/

section
variable {s : State} {sp : Sel} {wid : BitVec 2} {v : Byte} {a : Word32} {e : RangeEntry}
  (ha : AccessOk s sp wid a) (he : lookup s sp .w a = some e) (htk : e.tkind = .banksel)
include ha he htk

theorem AccessOk.exec_write_select {t : State} (hsel : bankSelect e.tid.toNat (v.setWidth 16) s = .ok t) :
    exec (.write sp wid v a) s = .next { t with busLatch := latchAfter t sp v } := by
  rw [ha.exec_write v he]
  simp only [writeTarget, htk, hsel, finishWrite_eq]

theorem AccessOk.exec_write_selectError {r : Result} (hsel : bankSelect e.tid.toNat (v.setWidth 16) s = .error r) :
    exec (.write sp wid v a) s = r := by
  rw [ha.exec_write v he]
  simp only [writeTarget, htk, hsel]

end

/-- Settles O46: the slot SEL names decides, and the invariant bounds its selector. -/
theorem bankActiveAndSelector : Obligations.BankActiveAndSelector := by
  intro s b hp
  refine ⟨fun k hb hk => ⟨?_, fun h => (h.banks _ k hk).selected⟩, fun hnone => ?_⟩
  · exact exec_bankActive hp ((namedBank_of_lt hb).trans hk)
  · have hn := namedBank_eq_none hnone
    exact ⟨exec_bankActive_selector hp hn, exec_bankSelect_selector hp hn⟩

/-- Settles O45: both ways make the same select, and its four outcomes are those of `bankSelect`. -/
theorem bankSelectBothWays : Obligations.BankSelectBothWays := by
  intro s k hp
  refine ⟨fun b x hb hk => ?command, fun sp v a e ha he htk hk => ?write⟩
  case command =>
    have hn := (namedBank_of_lt hb).trans hk
    simp only [← setBank_toNat]
    exact ⟨fun hx => exec_bankSelect_ok hp hn (bankSelect_of_lt hk hx), fun hx =>
      ⟨fun ho => exec_bankSelect_error hp hn (bankSelect_of_fault hk hx ho),
        fun ho => exec_bankSelect_ok hp hn (bankSelect_of_modulo hk hx ho),
        fun ho => exec_bankSelect_ok hp hn (bankSelect_of_ignore hk hx ho)⟩⟩
  case write =>
    rw [← toNat_setWidth_byte v]
    exact ⟨fun hx => ha.exec_write_select he htk (bankSelect_of_lt hk hx), fun hx =>
      ⟨fun ho => ha.exec_write_selectError he htk (bankSelect_of_fault hk hx ho),
        fun ho => ha.exec_write_select he htk (bankSelect_of_modulo hk hx ho),
        fun ho => ha.exec_write_select he htk (bankSelect_of_ignore hk hx ho)⟩⟩

/-! ### The access after a select -/

/-- The state after a bank select: selector y in slot b, which held k, and the bus latch l, which a WRITE that selects
may have driven (41_access.md R173, R177). -/
def afterSelect (b : Nat) (k : Bank) (y : Word16) (l : Vector Byte 16) (s : State) : State :=
  { setBank b { k with sel := y } s with busLatch := l }

/-- Either way of selecting leads to the same state, but for the bus latch. -/
theorem SelectorAfter.exec_select {s : State} {i : Instr} {b : Sel} {x y : Word16} {k : Bank}
    (hy : SelectorAfter s.params.bankOor k x y) (h : Inv s) (hp : s.phase = .run) (hk : bankAt s b.toNat = some k)
    (hi : i = .bankSelect b x ∨ ∃ (sp : Sel) (w : Byte) (a : Word32) (e : RangeEntry), i = .write sp 0 w a ∧
      AccessOk s sp 0 a ∧ lookup s sp .w a = some e ∧ e.tkind = .banksel ∧ e.tid.toNat = b.toNat ∧
      x = w.setWidth 16) :
    ∃ l, exec i s = .next (afterSelect b.toNat k y l s) := by
  have hsel := hy.bankSelect_eq hk
  obtain rfl | ⟨sp, w, a, e, rfl, ha, he, htk, htid, rfl⟩ := hi
  · have hb : b.toNat < s.params.numBanks := (h.banks _ k hk).exists_
    exact ⟨s.busLatch, exec_bankSelect_ok hp ((namedBank_of_lt hb).trans hk) hsel⟩
  · rw [← htid] at hsel ⊢
    exact ⟨_, ha.exec_write_select he htk hsel⟩

section
variable {s : State} {b : Nat} {k : Bank} (y : Word16) (l : Vector Byte 16)

theorem bankAt_afterSelect (hb : b < 16) : bankAt (afterSelect b k y l s) b = some { k with sel := y } :=
  (bankAt_setBank hb _ s b).trans (if_pos rfl)

theorem AccessOk.afterSelect {sp : Sel} {wid : BitVec 2} {a : Word32} (h : AccessOk s sp wid a) :
    AccessOk (afterSelect b k y l s) sp wid a := h

@[simp] theorem lookup_afterSelect (sp : Sel) (d : Dir) (a : Word32) :
    lookup (afterSelect b k y l s) sp d a = lookup s sp d a := rfl

@[simp] theorem cell_afterSelect (b' : Nat) (i : Word16) (off : Word32) :
    (afterSelect b k y l s).cell b' i off = s.cell b' i off := rfl

end

/-- Settles O47: a select keeps the tables and the cells and moves the selector, so the access behind it reaches the
buffer then selected. -/
theorem nextAccessSeesTheSwitch : Obligations.NextAccessSeesTheSwitch := by
  intro s i b x y k sp v a e h ha hk hi hy htk htid
  obtain ⟨l, hexec⟩ := SelectorAfter.exec_select hy h ha.1 hk hi
  have hinv : Inv (afterSelect b.toNat k y l s) := (exec_effect hexec).inv h
  have hat := bankAt_afterSelect (s := s) (k := k) y l b.isLt
  refine ⟨_, hexec, hat, rfl, fun he hv => ?read, fun he => ?write⟩
  case read =>
    obtain ⟨k', hk', -, -, hread, -⟩ :=
      readBankCell _ sp a e hinv (ha.afterSelect y l) ((lookup_afterSelect y l sp .r a).trans he) htk
    rw [htid] at hk' hread
    obtain rfl := Option.some.inj (hk'.symm.trans hat)
    exact hread v ((cell_afterSelect y l _ y _).trans hv)
  case write =>
    obtain ⟨k', u, hk', -, -, hwrite, -, hsame, hother⟩ :=
      writeBankCell _ sp v a e hinv (ha.afterSelect y l) ((lookup_afterSelect y l sp .w a).trans he) htk
    rw [htid] at hk' hsame hother
    obtain rfl := Option.some.inj (hk'.symm.trans hat)
    refine ⟨u, hwrite, hsame, fun j off hj => (hother _ j off ?_).trans (cell_afterSelect y l _ j off)⟩
    exact fun heq => hj (congrArg (·.2.1) heq)

end Sys2Proof.Machine

/-! ## Accepted commands and invocations

A command is checked against its phases, then against its contexts, before it does anything (46_invocation.md R303).
While an invocation is outstanding only HRET touches it (R304, R306), and HRET hands its byte to the continuation (R302,
R305). -/

namespace Sys2Proof.Machine

/-! ### The checks of phase and context -/

/-- `require st.ctx ∈ cs else raise Fault(F_CONTEXT)` (46_invocation.md R303). -/
def inContext (cs : List Ctx) (s : State) (body : Result) : Result :=
  if s.ctx ∈ cs then body else raiseFault .context s

section
variable {cs : List Ctx} {s : State} (body : Result)

theorem inContext_of_mem (h : s.ctx ∈ cs) : inContext cs s body = body :=
  if_pos h

theorem inContext_of_not_mem (h : s.ctx ∉ cs) : inContext cs s body = raiseFault .context s :=
  if_neg h

theorem inContext_any : inContext [.top, .handler, .callback] s body = body :=
  inContext_of_mem body (by cases s.ctx <;> decide)

theorem inContext_top :
    inContext [.top] s body = if s.ctx ≠ .top then raiseFault .context s else body := by
  simp [inContext, ite_not]

theorem inContext_invoked :
    inContext [.handler, .callback] s body = if s.ctx = .top then raiseFault .context s else body := by
  unfold inContext
  cases s.ctx <;> rfl

end

/-- The fault register holds no fault of the two checks. -/
def NoCheckFault (s : State) : Prop :=
  ∀ f, s.fault = some f → f.code ≠ .phase ∧ f.code ≠ .context

/-- The next state, if there is one, holds no fault of the two checks. -/
def PastChecks (r : Result) : Prop :=
  ∀ t, r = .next t → NoCheckFault t

theorem noCheckFault_of_none {s : State} (h : s.fault = none) : NoCheckFault s :=
  fun _ hf => nomatch h.symm.trans hf

theorem pastChecks_fault (r : Fault) : PastChecks (.fault r) :=
  fun _ ht => nomatch ht

theorem NoCheckFault.of_eq {s t : State} (h : NoCheckFault s) (hf : t.fault = s.fault := by simp) :
    NoCheckFault t :=
  fun f ht => h f (hf ▸ ht)

theorem noCheckFault_faultState {c : FaultCode} (n : Word64) (s : State)
    (hc : c ≠ .phase ∧ c ≠ .context := by decide) : NoCheckFault (faultState c n s) := by
  rintro _ ⟨⟩
  exact hc

/-- A next state that keeps the fault register. -/
theorem NoCheckFault.next {s t : State} (h : NoCheckFault s) (hf : t.fault = s.fault := by simp) :
    PastChecks (.next t) := by
  rintro _ ⟨⟩
  exact h.of_eq hf

theorem pastChecks_raiseFault {c : FaultCode} (s : State) (hc : c ≠ .phase ∧ c ≠ .context := by decide) :
    PastChecks (raiseFault c s) := by
  rintro _ ⟨⟩
  exact noCheckFault_faultState _ s hc

/-! ### What lies behind the checks -/

theorem Selects.fault_eq {s t : State} (h : Selects s t) : t.fault = s.fault := by
  rw [h.eq_withBanks]

theorem fault_of_bankSelect_ok {b : Nat} {x : Word16} {s t : State} (h : bankSelect b x s = .ok t) :
    t.fault = s.fault :=
  Selects.fault_eq (.single ⟨b, x, h⟩)

theorem pastChecks_of_bankSelect_error {b : Nat} {x : Word16} {s : State} {r : Result}
    (h : bankSelect b x s = .error r) : PastChecks r := by
  obtain ⟨-, rfl⟩ | ⟨-, -, -, -, rfl⟩ := bankSelect_error h
  · exact pastChecks_fault _
  · exact pastChecks_raiseFault s

section
variable {s : State} (h : NoCheckFault s)
include h

theorem NoCheckFault.raiseConfig (k : CfgKind) (info : List InfoItem) : PastChecks (raiseConfig k info s) :=
  h.next

theorem NoCheckFault.portWrite (u : Word16) (o : Word32) (v : Byte) (sp : Sel) (k : Nat) :
    PastChecks (portWrite u o v sp k s) := by
  unfold Machine.portWrite
  split
  · exact pastChecks_fault _
  · obtain ⟨s', hs', -, hr | ⟨e, -, j, -, -, hr⟩ | ⟨-, -, -, -, -, hr⟩ | ⟨-, -, -, -, -, hr⟩ | ⟨-, -, -, -, hr⟩⟩ :=
      dispatchWrite_cases rfl <;> rw [hr]
    · exact h.next (by rw [hs']; simp)
    · exact h.next (by rw [hs']; simp)
    · exact pastChecks_raiseFault s'
    · exact pastChecks_fault _
    · exact pastChecks_fault _

theorem NoCheckFault.portRead (u : Word16) (o : Word32) (sp : Sel) (acc : Option Byte) (k : Nat) :
    PastChecks (portRead u o sp acc k s) := by
  unfold Machine.portRead
  split
  · exact pastChecks_fault _
  · obtain ⟨-, ⟨v, -, hr⟩ | ⟨-, hr⟩⟩ | ⟨e, -, j, -, -, hr⟩ | ⟨-, -, -, -, hr⟩ := dispatchRead_cases rfl <;> rw [hr]
    · exact h.next
    · exact h.next
    · exact h.next
    · exact pastChecks_fault _

theorem NoCheckFault.readTarget (sp : Sel) (a : Word32) (e : RangeEntry) : PastChecks (readTarget sp a e s) := by
  unfold Machine.readTarget
  split
  · exact h.next
  · split
    · exact h.next
    · rename_i hr
      obtain ⟨-, rfl⟩ | ⟨-, -, -, rfl⟩ | ⟨-, -, -, -, rfl⟩ := bufRead_error hr
      · exact pastChecks_fault _
      · exact pastChecks_fault _
      · exact pastChecks_raiseFault s
  · exact h.portRead _ _ _ _ _
  · exact pastChecks_fault _

theorem NoCheckFault.writeTarget (sp : Sel) (v : Byte) (a : Word32) (e : RangeEntry) :
    PastChecks (writeTarget sp v a e s) := by
  unfold Machine.writeTarget
  split
  · exact h.next
  · split
    · rename_i hw
      obtain ⟨-, -, -, rfl⟩ := bufWrite_ok hw
      exact h.next
    · rename_i hw
      obtain ⟨-, rfl⟩ | ⟨-, -, -, rfl⟩ := bufWrite_error hw
      · exact pastChecks_fault _
      · exact pastChecks_fault _
  · exact h.portWrite _ _ _ _ _
  · split
    · rename_i hsel
      exact h.next ((finishWrite_fault ..).trans (fault_of_bankSelect_ok hsel))
    · rename_i hsel
      exact pastChecks_of_bankSelect_error hsel

theorem NoCheckFault.pumpContinue : PastChecks (pumpContinue s) := by
  intro t ht
  cases pumpContinue_effect ht with
  | ends | oneShot | rearm => exact h.of_eq
  | overflow | seqSpent => exact noCheckFault_faultState _ _

theorem NoCheckFault.schedule (delay : Word64) (period : Option Word64) (tag : Word32) :
    PastChecks (schedule delay period tag s) := by
  obtain ⟨-, hr⟩ | ⟨-, ⟨-, hr⟩ | ⟨-, ⟨-, hr⟩ | ⟨-, -, hr⟩ | ⟨-, -, hr⟩⟩⟩ :=
    schedule_cases (rfl : Machine.schedule delay period tag s = _) <;> rw [hr]
  · exact pastChecks_raiseFault _
  · exact pastChecks_raiseFault _
  · exact pastChecks_raiseFault _
  · exact pastChecks_raiseFault _
  · exact h.next

theorem NoCheckFault.resume (k : Cont) (d : Byte) : PastChecks (resume k d s) := by
  unfold Machine.resume
  split
  · exact h.next
  · exact h.next
  · exact h.portWrite _ _ _ _ _
  · exact h.portRead _ _ _ _ _
  · exact h.pumpContinue

end

/-! ### Every command makes its checks first -/

/-- The command i is its check of R303's phases, then its check of R303's contexts, and then a meaning that raises
neither fault. -/
def ChecksFirst (i : Instr) (s : State) : Prop :=
  ∃ body, exec i s = inPhase (phasesOf i) s (inContext (contextsOf i) s body) ∧ (NoCheckFault s → PastChecks body)

/-- A command that every context accepts. -/
theorem checksFirst_of_any {i : Instr} {s : State} (body : Result)
    (hexec : exec i s = inPhase (phasesOf i) s body) (hctx : contextsOf i = [.top, .handler, .callback])
    (hbody : NoCheckFault s → PastChecks body) : ChecksFirst i s :=
  ⟨body, by rw [hexec, hctx, inContext_any], hbody⟩

section
variable {s : State}

theorem cfgGeometry_checksFirst (cpl lpf hbs hbe vbs vbe : Word32) :
    ChecksFirst (.cfgGeometry cpl lpf hbs hbe vbs vbe) s := by
  refine checksFirst_of_any _ rfl rfl fun h => ?_
  dsimp only
  split_ifs
  · exact h.next
  · exact h.raiseConfig _ _

theorem cfgBank_checksFirst (b : Sel) (n : Word16) (size : Word32) : ChecksFirst (.cfgBank b n size) s := by
  refine checksFirst_of_any _ rfl rfl fun h => ?_
  split_ifs
  · exact h.raiseConfig _ _
  · exact h.raiseConfig _ _
  · exact h.next

theorem cfgPortunit_checksFirst (u : Sel) (p : Policy) : ChecksFirst (.cfgPortunit u p) s := by
  refine checksFirst_of_any _ rfl rfl fun h => ?_
  split_ifs
  · exact h.raiseConfig _ _
  · exact h.next

theorem regRange_checksFirst (sp : Sel) (dm : DirSet) (ovr : Bool) (tk : TKind) (lo hi mask : Word32) (tid : Word16) :
    ChecksFirst (.regRange sp dm ovr tk lo hi mask tid) s := by
  refine checksFirst_of_any _ rfl rfl fun h => ?_
  dsimp only
  generalize (if ovr = true then none else firstConflict s sp _ dm) = conflict
  split_ifs
  · exact h.raiseConfig _ _
  · exact h.raiseConfig _ _
  · exact h.raiseConfig _ _
  · exact h.raiseConfig _ _
  · cases fullTable s sp dm with
    | some d => exact h.raiseConfig _ _
    | none =>
      cases conflict with
      | some p => exact h.raiseConfig _ _
      | none => exact h.next (by rw [addDirs_eq])

theorem regPort_checksFirst (u : Sel) (dm : DirSet) (tk : TKind) (bitmask : Word32) (tid : Word16) :
    ChecksFirst (.regPort u dm tk bitmask tid) s := by
  refine checksFirst_of_any _ rfl rfl fun h => ?_
  split_ifs
  · exact h.raiseConfig _ _
  · exact h.raiseConfig _ _
  · exact h.raiseConfig _ _
  · exact h.next

theorem start_checksFirst : ChecksFirst .start s := by
  refine checksFirst_of_any _ rfl rfl fun h => ?_
  split_ifs
  · exact h.raiseConfig _ _
  · exact h.next

theorem rasterQuery_checksFirst {i : Instr} (f : Geometry → Word64) (hexec : exec i s = rasterQuery s f)
    (hph : phasesOf i = [.run]) (hctx : contextsOf i = [.top, .handler, .callback]) : ChecksFirst i s := by
  refine checksFirst_of_any _ (by rw [hexec, hph]; rfl) hctx fun h => ?_
  split
  · exact pastChecks_fault _
  · exact h.next

theorem bankSelect_checksFirst (b : Sel) (x : Word16) : ChecksFirst (.bankSelect b x) s := by
  refine checksFirst_of_any _ rfl rfl fun h => ?_
  split
  · exact pastChecks_raiseFault s
  · split
    · rename_i hsel
      exact h.next (fault_of_bankSelect_ok hsel)
    · rename_i hsel
      exact pastChecks_of_bankSelect_error hsel

theorem bankActive_checksFirst (b : Sel) : ChecksFirst (.bankActive b) s := by
  refine checksFirst_of_any _ rfl rfl fun h => ?_
  split
  · exact pastChecks_raiseFault s
  · exact h.next

theorem schedPeriodic_checksFirst (period : Word64) (tag : Word32) : ChecksFirst (.schedPeriodic period tag) s := by
  refine checksFirst_of_any _ rfl rfl fun h => ?_
  split_ifs
  · exact pastChecks_raiseFault s
  · exact h.schedule _ _ _

/-- The checks of an access behind its check of the context (41_access.md R170). -/
theorem access_checksFirst {i : Instr} {sp : Sel} {wid : BitVec 2} {a : Word32} (body : Result)
    (hexec : exec i s = accessChecks sp wid a s body) (hph : phasesOf i = [.run]) (hctx : contextsOf i = [.top])
    (hbody : NoCheckFault s → PastChecks body) : ChecksFirst i s := by
  refine ⟨_, by rw [hexec, hph, hctx, inContext_top]; rfl, fun h => ?_⟩
  split_ifs
  · exact pastChecks_raiseFault s
  · exact pastChecks_raiseFault s
  · exact pastChecks_raiseFault s
  · exact hbody h

theorem read_checksFirst (sp : Sel) (wid : BitVec 2) (a : Word32) : ChecksFirst (.read sp wid a) s := by
  refine access_checksFirst _ rfl rfl rfl fun h => ?_
  split
  · exact h.next
  · exact h.readTarget _ _ _

theorem write_checksFirst (sp : Sel) (wid : BitVec 2) (v : Byte) (a : Word32) : ChecksFirst (.write sp wid v a) s := by
  refine access_checksFirst _ rfl rfl rfl fun h => ?_
  split
  · exact h.next
  · exact h.writeTarget _ _ _ _

theorem step_checksFirst (c : Word64) : ChecksFirst (.step c) s := by
  refine ⟨_, congrArg (inPhase [.run] s) (inContext_top _).symm, fun h => ?_⟩
  split_ifs
  · exact pastChecks_raiseFault s
  · exact h.of_eq.pumpContinue

theorem hret_checksFirst (d : Byte) : ChecksFirst (.hret d) s := by
  refine ⟨_, congrArg (inPhase [.run] s) (inContext_invoked _).symm, fun h => ?_⟩
  split
  · exact pastChecks_fault _
  · exact h.of_eq.resume _ _

theorem exec_checksFirst (i : Instr) (s : State) : ChecksFirst i s := by
  cases i with
  | cfgGeometry => exact cfgGeometry_checksFirst _ _ _ _ _ _
  | cfgBank => exact cfgBank_checksFirst _ _ _
  | cfgPortunit => exact cfgPortunit_checksFirst _ _
  | regRange => exact regRange_checksFirst _ _ _ _ _ _ _ _
  | regPort => exact regPort_checksFirst _ _ _ _ _
  | start => exact start_checksFirst
  | read => exact read_checksFirst _ _ _
  | write => exact write_checksFirst _ _ _ _
  | step => exact step_checksFirst _
  | rcNow => exact checksFirst_of_any _ rfl rfl fun h => h.next
  | rcScanline => exact rasterQuery_checksFirst _ rfl rfl rfl
  | rcHpos => exact rasterQuery_checksFirst _ rfl rfl rfl
  | rcHblank => exact rasterQuery_checksFirst _ rfl rfl rfl
  | rcVblank => exact rasterQuery_checksFirst _ rfl rfl rfl
  | rcCblank => exact rasterQuery_checksFirst _ rfl rfl rfl
  | rcLinebit => exact rasterQuery_checksFirst _ rfl rfl rfl
  | schedAfter => exact checksFirst_of_any _ rfl rfl fun h => h.schedule _ _ _
  | schedPeriodic => exact schedPeriodic_checksFirst _ _
  | cancel => exact checksFirst_of_any _ rfl rfl fun h => h.next
  | bankSelect => exact bankSelect_checksFirst _ _
  | bankActive => exact bankActive_checksFirst _
  | hret => exact hret_checksFirst _

end

/-- Settles O8: every command makes its two checks in this order and behind them raises neither fault. -/
theorem acceptedCommands : Obligations.AcceptedCommands := by
  intro i s hp
  have hs : s.halted = false := halted_eq_false_iff.2 hp
  obtain ⟨body, hexec, hbody⟩ := exec_checksFirst i s
  rw [hexec]
  refine ⟨fun hph => ?phase, fun hph hctx => ?context, fun hph hctx hf t f ht => ?accepted⟩
  case phase => rw [inPhase_of_not_mem hs hph, raiseFault_eq]
  case context => rw [inPhase_of_mem hs hph, inContext_of_not_mem body hctx, raiseFault_eq]
  case accepted =>
    rw [inPhase_of_mem hs hph, inContext_of_mem body hctx] at ht
    exact hbody (noCheckFault_of_none hf) t ht f

/-! ### While an invocation is outstanding -/

/-- From s to t the command ended with an error: a new phase and one more record, which is no invocation's. -/
def EndsInError (s t : State) : Prop :=
  t.phase ≠ s.phase ∧ ∃ r, t.trace = s.trace ++ [r] ∧
    (∀ h o, r ≠ .invRead h o) ∧ (∀ h o v, r ≠ .invWrite h o v) ∧ ∀ tag id, r ≠ .invCallback tag id

theorem endsInError_faultState {s : State} (hs : s.halted = false) (c : FaultCode) (n : Word64) :
    EndsInError s (faultState c n s) := by
  refine ⟨fun hp => ?_, _, faultState_trace c n s, nofun, nofun, nofun⟩
  simp [State.halted, ← hp] at hs

theorem endsInError_configErrorState {s : State} (hp : s.phase = .config) (k : CfgKind) (info : List InfoItem) :
    EndsInError s (configErrorState k info s) :=
  ⟨by simp [hp], _, configErrorState_trace k info s, nofun, nofun, nofun⟩

/-- From s to t the invocation is still the same one, and no other was made. -/
structure InvocationKept (s t : State) : Prop where
  elapsed : t.elapsed = s.elapsed := by simp
  ctx : t.ctx = s.ctx := by simp
  cont : t.cont = s.cont := by simp
  pumping : t.pumping = s.pumping := by simp
  trace : t.trace = s.trace ∨ EndsInError s t := by simp

/-- READ, WRITE and STEP have their effects at Top alone, so with an invocation outstanding HRET alone can touch it
(46_invocation.md R303, R304). -/
theorem Effect.invocationKept {i : Instr} {s t : State} (h : Effect i s t) (hctx : s.ctx ≠ .top)
    (hi : ∀ d, i ≠ .hret d) : InvocationKept s t := by
  cases h with
  | fault c hs => exact { trace := .inr (endsInError_faultState hs c _) }
  | configError k info hp => exact { trace := .inr (endsInError_configErrorState hp k info) }
  | scheduleSpent hs => exact { trace := .inr (endsInError_faultState (s := { s with nextId := s.nextId + 1 }) hs _ _) }
  | cfgGeometry | cfgBank | cfgPortunit | regPort | start | answer | schedule | cancel => exact {}
  | regRange => rw [addDirs_eq]; exact {}
  | bankSelect _ _ h => rw [Selects.eq_withBanks (.single h)]; exact {}
  | read _ _ _ ha | readUnmapped _ _ _ ha => exact absurd ha.2.1 hctx
  | write _ _ _ _ ha | writeUnmapped _ _ _ _ ha | writeCell _ _ _ _ ha => exact absurd ha.2.1 hctx
  | step _ _ htop => exact absurd htop hctx
  | hretRead d | hretWrite d | hretPump d => exact absurd rfl (hi d)

/-- Settles O49: HRET keeps the time by its frame, and every other command keeps the invocation. -/
theorem oneInvocationAtATime : Obligations.OneInvocationAtATime := by
  intro i s t hctx hexec
  have heffect := exec_effect hexec
  refine ⟨?_, fun hi => ?_⟩
  · obtain ⟨d, rfl⟩ | hi := em (∃ d, i = .hret d)
    · exact not_imp_comm.1 heffect.frame.elapsed (by simp [Instr.opcode])
    · exact (heffect.invocationKept hctx (not_exists.1 hi)).elapsed
  · have hkept := heffect.invocationKept hctx hi
    exact ⟨hkept.ctx, hkept.cont, hkept.pumping, hkept.trace⟩

/-! ### HRET -/

/-- HRET resumes the suspended command in context Top, with no continuation (R305). -/
theorem exec_hret {s : State} {k : Cont} (hp : s.phase = .run) (hctx : s.ctx ≠ .top) (hk : s.cont = some k) (d : Byte) :
    exec (.hret d) s = resume k d (endInvocation s) := by
  refine (inPhase_run hp _).trans ?_
  rw [if_neg hctx, hk]

/-- Settles O48: a device access completes with the byte, and a callback's pump goes on from context Top. -/
theorem hretCompletes : Obligations.HretCompletes := by
  intro s d hp hctx
  refine ⟨fun sp hk => ?read, fun sp v hk => ?write, fun id hk => ⟨fun hno => ?pumpEnds, fun h hdue => ?pumpFires⟩⟩
  case read =>
    rw [exec_hret hp hctx hk, resume, finishRead_eq]
    rfl
  case write =>
    rw [exec_hret hp hctx hk, resume, finishWrite_eq]
    rfl
  case pumpEnds =>
    rw [exec_hret hp hctx hk]
    refine pumpContinue_of_not_due fun e he => ?_
    refine Bool.eq_false_iff.2 fun hdue => ?_
    obtain ⟨hd, ht⟩ := isDue_iff.1 hdue
    exact (hno e he).elim (by simp [hd]) (not_lt.2 ht)
  case pumpFires =>
    obtain ⟨e, he, hd, ht⟩ := hdue
    obtain ⟨e', hpick⟩ := exists_pickDue (s := endInvocation s) he (isDue_iff.2 ⟨hd, ht⟩)
    have hnext : FiresNext s e' := firesNext_of_pickDue hpick
    refine ⟨e', hnext, ?_, fun hfifo e'' => hnext.unique h.queueLegal hfifo⟩
    rw [exec_hret hp hctx hk]
    exact pumpContinue_of_pick hpick (by simp)

end Sys2Proof.Machine

/-! ## Terminal phases, error records and the checks of registration

What the block still answers in Failed and Faulted (60_exceptions.md R324), the record a command leaves when it raises
an error (R323, R326), and the failing checks of the registration commands (R329). -/

namespace Sys2Proof.Machine

/-! ### Failed and Faulted -/

/-- In Failed and Faulted the phase check of a command stops the block (60_exceptions.md R324). -/
theorem exec_of_halted {s : State} (hs : s.halted = true) (i : Instr) : exec i s = .fault .halted := by
  obtain ⟨body, hexec, -⟩ := exec_checksFirst i s
  rw [hexec, inPhase_of_halted hs]

theorem step_of_halted {s : State} (hs : s.halted = true) : step s = servePast isSaveOrReset (.fault .halted) s :=
  if_pos hs

/-- The first input that is accepted is served past the inputs before it. -/
theorem servePast_append {serve : Input → Bool} {s : State} {pre rest : List Input} {i : Input} (otherwise : Result)
    (hin : s.inbox = pre ++ i :: rest) (hpre : ∀ j ∈ pre, serve j = false) (hi : serve i = true) :
    servePast serve otherwise s = serveHost i (if isReset i then rest else pre ++ rest) s := by
  rw [servePast, hin, takePast_append rest hpre hi]

theorem servePast_of_none {serve : Input → Bool} {s : State} (otherwise : Result)
    (hin : ∀ i ∈ s.inbox, serve i = false) : servePast serve otherwise s = otherwise := by
  rw [servePast, takePast_eq_none hin]

theorem isSaveOrReset_eq_false {i : Input} (h : i ≠ .save ∧ i ≠ .reset) : isSaveOrReset i = false := by
  cases i with
  | save => exact absurd rfl h.1
  | reset => exact absurd rfl h.2
  | _ => rfl

/-- Settles O7: commands and restores stop at their phase check, and the step looks for a save or a reset alone. -/
theorem terminalPhases : Obligations.TerminalPhases := by
  intro s hp
  have hs : s.halted = true := halted_iff.2 hp
  have unread {l : List Input} (h : ∀ i ∈ l, i ≠ .save ∧ i ≠ .reset) : ∀ i ∈ l, isSaveOrReset i = false :=
    fun i hi => isSaveOrReset_eq_false (h i hi)
  refine ⟨exec_of_halted hs, fun img => inPhase_of_halted hs, fun hin => ?_,
    fun pre rest hpre => ⟨fun hin => ?_, fun hin => ?_⟩⟩
  · rw [step_of_halted hs, servePast_of_none _ (unread hin)]
  · rw [step_of_halted hs, servePast_append _ hin (unread hpre) rfl]
    rfl
  · rw [step_of_halted hs, servePast_append _ hin (unread hpre) rfl]
    rfl

/-! ### Error records -/

/-- From s to t a command faulted: its record with its own index, the FaultRec last, and no response
(60_exceptions.md R326). -/
def FaultedFrom (s t : State) : Prop :=
  ∃ code, t.fault = some ⟨code, s.cmdCount - 1⟩ ∧ t.trace = s.trace ++ [.faultRec code] ∧
    t.responses = s.responses ∧ t.cfgError = s.cfgError

/-- A fault raised in a state u of the command that left the count, the trace, the responses and the error register of
s alone. -/
theorem faultedFrom_faultState {s u v : State} (c : FaultCode) (hn : s.cmdCount ≠ 0)
    (hcount : v.cmdCount = s.cmdCount := by simp) (htrace : u.trace = s.trace := by simp)
    (hresp : u.responses = s.responses := by simp) (hcfg : u.cfgError = s.cfgError := by simp) :
    FaultedFrom s (faultState c (currentIndex v) u) := by
  refine ⟨c, ?_, ?_, hresp, hcfg⟩
  · rw [faultState_fault, currentIndex_of_ne (hcount ▸ hn), hcount]
  · rw [faultState_trace, htrace]

/-- The block still takes commands, or the command faulted. -/
def GoesOnOrFaults (s t : State) : Prop :=
  t.halted = false ∨ (t.phase = .faulted ∧ FaultedFrom s t)

theorem goesOnOrFaults_of_phase {s t : State} (hs : s.halted = false) (h : t.phase = s.phase := by simp) :
    GoesOnOrFaults s t :=
  .inl (by rwa [State.halted, h])

theorem goesOnOrFaults_faultState {s u v : State} (c : FaultCode) (hn : s.cmdCount ≠ 0)
    (hcount : v.cmdCount = s.cmdCount := by simp) (htrace : u.trace = s.trace := by simp)
    (hresp : u.responses = s.responses := by simp) (hcfg : u.cfgError = s.cfgError := by simp) :
    GoesOnOrFaults s (faultState c (currentIndex v) u) :=
  .inr ⟨rfl, faultedFrom_faultState c hn hcount htrace hresp hcfg⟩

/-- What a command does from a state it has come to without a record or a response, it does from its start. -/
theorem GoesOnOrFaults.from_start {s u t : State} (h : GoesOnOrFaults u t) (hcount : u.cmdCount = s.cmdCount := by simp)
    (htrace : u.trace = s.trace := by simp) (hresp : u.responses = s.responses := by simp)
    (hcfg : u.cfgError = s.cfgError := by simp) : GoesOnOrFaults s t := by
  rwa [GoesOnOrFaults, FaultedFrom, hcount, htrace, hresp, hcfg] at h

section
variable {s t : State}

theorem ReadEffect.goesOnOrFaults {U : Word16 → Prop} (h : ReadEffect U s t) (hs : s.halted = false)
    (hn : s.cmdCount ≠ 0) : GoesOnOrFaults s t := by
  cases h with
  | done | openBus | invoke => exact goesOnOrFaults_of_phase hs
  | fault c => exact goesOnOrFaults_faultState c hn

theorem WriteEffect.goesOnOrFaults {U : Word16 → Prop} (h : WriteEffect U s t) (hs : s.halted = false)
    (hn : s.cmdCount ≠ 0) : GoesOnOrFaults s t := by
  cases h with
  | done _ _ hsel | invoke _ _ _ _ hsel =>
    rw [hsel.eq_withBanks]
    exact goesOnOrFaults_of_phase hs
  | fault c hsel =>
    rw [hsel.eq_withBanks]
    exact goesOnOrFaults_faultState c hn

theorem PumpEffect.goesOnOrFaults (h : PumpEffect s t) (hs : s.halted = false) (hn : s.cmdCount ≠ 0) :
    GoesOnOrFaults s t := by
  cases h with
  | ends | oneShot | rearm => exact goesOnOrFaults_of_phase hs
  | overflow | seqSpent => exact goesOnOrFaults_faultState _ hn

/-- A command goes on, or faults, or is a registration command that fails the configuration and does nothing else. -/
theorem Effect.ending {i : Instr} (h : Effect i s t) (hs : s.halted = false) (hn : s.cmdCount ≠ 0) :
    GoesOnOrFaults s t ∨
      (s.phase = .config ∧ i.opcode ∈ registrationOpcodes ∧ ∃ k info, t = configErrorState k info s) := by
  cases h with
  | configError k info hp hi => exact .inr ⟨hp, hi, k, info, rfl⟩
  | fault c => exact .inl (goesOnOrFaults_faultState c hn)
  | scheduleSpent => exact .inl (goesOnOrFaults_faultState _ hn)
  | cfgGeometry | cfgBank | cfgPortunit | regPort | answer | schedule | cancel | readUnmapped | writeUnmapped
  | writeCell =>
    exact .inl (goesOnOrFaults_of_phase hs)
  | regRange => exact .inl (goesOnOrFaults_of_phase hs (by rw [addDirs_eq]))
  | start => exact .inl (.inl rfl)
  | bankSelect _ _ h => exact .inl (goesOnOrFaults_of_phase hs (by rw [Selects.eq_withBanks (.single h)]))
  | read _ _ _ _ h => exact .inl (h.goesOnOrFaults hs hn)
  | write _ _ _ _ _ h => exact .inl (h.goesOnOrFaults hs hn)
  | step _ _ _ _ h => exact .inl (h.goesOnOrFaults hs hn).from_start
  | hretRead _ _ _ _ h => exact .inl (h.goesOnOrFaults hs hn).from_start
  | hretWrite _ _ _ _ h => exact .inl (h.goesOnOrFaults hs hn).from_start
  | hretPump _ _ _ h => exact .inl (h.goesOnOrFaults hs hn).from_start

end

/-- Settles O9: a command that ends in phase Faulted neither went on nor failed the configuration. -/
theorem faultRecord : Obligations.FaultRecord := by
  intro i s t hs hn hexec hp
  obtain (hon | ⟨-, hfault⟩) | ⟨-, -, k, info, rfl⟩ := (exec_effect hexec).ending hs hn
  · simp [State.halted, hp] at hon
  · exact hfault
  · cases hp

/-- Settles O10: a command that ends in phase Failed neither went on nor faulted. -/
theorem configErrorRecord : Obligations.ConfigErrorRecord := by
  intro i s t hs hn hexec hp
  obtain (hon | ⟨hfaulted, -⟩) | ⟨hconfig, hi, k, info, rfl⟩ := (exec_effect hexec).ending hs hn
  · simp [State.halted, hp] at hon
  · cases hp.symm.trans hfaulted
  · refine ⟨hconfig, hi, k, info, ?_⟩
    rw [← currentIndex_of_ne hn]
    rfl

/-! ### The checks of registration -/

theorem execCfgGeometry_badGeometry {s : State} {cpl lpf hbs hbe vbs vbe : Word32} (hp : s.phase = .config)
    (hg : ¬ Geometry.Legal ⟨cpl, lpf, hbs, hbe, vbs, vbe⟩) :
    execCfgGeometry cpl lpf hbs hbe vbs vbe s = .next (afterConfigError .badGeometry
      [.word (lpf ++ cpl), .word (hbe ++ hbs), .word (vbe ++ vbs)] s) := by
  rw [execCfgGeometry, inPhase_config hp]
  exact if_neg hg

theorem execCfgBank_badSelector {s : State} {b : Sel} (n : Word16) (size : Word32) (hp : s.phase = .config)
    (hb : s.params.numBanks ≤ b.toNat) :
    execCfgBank b n size s = .next (afterConfigError .badSelector [infoWord b] s) := by
  rw [execCfgBank, inPhase_config hp, if_pos hb, raiseConfig_eq]

theorem execCfgBank_badBank {s : State} {b : Sel} {n : Word16} {size : Word32} (hp : s.phase = .config)
    (hb : b.toNat < s.params.numBanks)
    (hbad : bankAt s b.toNat ≠ none ∨ n = 0 ∨ size = 0 ∨ 2 ^ s.params.awMax < size.toNat) :
    execCfgBank b n size s =
      .next (afterConfigError .badBank [infoWord b, infoWord n, infoWord size] s) := by
  rw [← Option.isSome_iff_ne_none] at hbad
  rw [execCfgBank, inPhase_config hp, if_neg (not_le.2 hb), if_pos hbad, raiseConfig_eq]

theorem execCfgPortunit_badSelector {s : State} {u : Sel} (p : Policy) (hp : s.phase = .config)
    (hu : s.params.numPortUnits ≤ u.toNat) :
    execCfgPortunit u p s = .next (afterConfigError .badSelector [infoWord u] s) := by
  rw [execCfgPortunit, inPhase_config hp, if_pos hu, raiseConfig_eq]

section
variable {s : State} {u : Sel} {dm : DirSet} {tk : TKind} {tid : Word16} (bitmask : Word32) (hp : s.phase = .config)
include hp

theorem execRegPort_badSelector (hu : s.params.numPortUnits ≤ u.toNat) :
    execRegPort u dm tk bitmask tid s = .next (afterConfigError .badSelector [infoWord u] s) := by
  rw [execRegPort, inPhase_config hp, if_pos hu, raiseConfig_eq]

variable (hu : u.toNat < s.params.numPortUnits)
include hu

theorem execRegPort_badTarget (ht : portTargetOk s tk tid (portDir dm) ≠ true) :
    execRegPort u dm tk bitmask tid s =
      .next (afterConfigError .badTarget [infoWord tk.bits, infoWord tid] s) := by
  rw [execRegPort, inPhase_config hp, if_neg (not_le.2 hu), if_pos (Bool.eq_false_iff.2 ht), raiseConfig_eq]

theorem execRegPort_tableFull (ht : portTargetOk s tk tid (portDir dm) = true)
    (hl : (s.ports[u.toNat]'u.isLt).length = s.params.maxPortEntries) :
    execRegPort u dm tk bitmask tid s = .next (afterConfigError .tableFull [infoWord u] s) := by
  rw [execRegPort, inPhase_config hp, if_neg (not_le.2 hu), if_neg (by simp [ht]), if_pos hl, raiseConfig_eq]

end

theorem execStart_missingGeometry {s : State} (hp : s.phase = .config) (hg : s.geo = none) :
    execStart s = .next (afterConfigError .missingGeometry [] s) := by
  rw [execStart, inPhase_config hp, if_pos (by simp [hg]), raiseConfig_eq]

/-- A DIRM of one direction is W exactly where the entry's direction is (40_config.md R153). -/
theorem portDir_eq_w_iff {dm : DirSet} (h : dm ≠ .rw) : portDir dm = .w ↔ dm = .w := by
  cases dm with
  | rw => exact absurd rfl h
  | _ => decide

/-- Settles O13: one rule per check, in the order of R329. -/
theorem registrationChecks : Obligations.RegistrationChecks := by
  intro s hp
  refine ⟨fun _ _ _ _ _ _ hg => execCfgGeometry_badGeometry hp hg,
    fun b n size => ⟨execCfgBank_badSelector n size hp, execCfgBank_badBank hp⟩,
    fun u p hu => execCfgPortunit_badSelector p hp hu, fun u dm tk bitmask tid hdm => ?regPort,
    execStart_missingGeometry hp⟩
  have htarget : portTargetOk s tk tid (portDir dm) = true ↔
      tk = .device ∨ (tk = .banksel ∧ dm = .w ∧ tid.toNat < s.params.numBanks ∧ bankAt s tid.toNat ≠ none) := by
    rw [portTargetOk_iff, portDir_eq_w_iff hdm]
  rw [← htarget]
  exact ⟨execRegPort_badSelector bitmask hp,
    fun hu => ⟨execRegPort_badTarget bitmask hp hu, execRegPort_tableFull bitmask hp hu⟩⟩

end Sys2Proof.Machine

/-! ## Save and restore

The image check item by item, the checks of restore in their order, and the step at a host operation
(60_exceptions.md R345 to R347). -/

namespace Sys2Proof.Machine

/-! ### The image -/


/-- The slots of an image fit those of the block (60_exceptions.md R346 item 1). -/
theorem slotFits_iff_forall {cur img : Option Bank} :
    slotFits cur img = true ↔ (img = none ↔ cur = none) ∧
      ∀ k k', cur = some k → img = some k' → k'.n = k.n ∧ k'.size = k.size ∧ k'.sel.toNat < k.n.toNat := by
  cases cur <;> cases img <;> simp [slotFits, and_assoc]

theorem period_ne_zero_iff {period : Option Word64} : period ≠ some 0 ↔ ∀ p, period = some p → 1 ≤ p.toNat := by
  constructor
  · rintro h p rfl
    exact Nat.one_le_iff_ne_zero.2 fun h0 => h (congrArg some (BitVec.eq_of_toNat_eq h0))
  · rintro h rfl
    exact absurd (h 0 rfl) (by decide)

/-- The check of an image is R346, item by item. -/
theorem snapshotValid_iff {s : State} {img : Snapshot} : snapshotValid s img = true ↔ ValidImage s img := by
  constructor
  · intro h
    obtain ⟨hfit, hwf, hcells, hq⟩ := snapshotValid_parts h
    exact
      { slots := fun b => slotFits_iff_forall.1 (hfit b)
        cells := hcells
        canonical := hwf
        capacity := hq.capacity
        ids := ⟨hq.ids, hq.idPos⟩
        periods := fun e he => period_ne_zero_iff.1 (hq.periods e he)
        idsBelow := hq.idBelow.resolve_left
        seqs := ⟨hq.seqs, hq.seqBelow⟩
        latches := fun v0 ho => by
          rw [snapshotValid, ho, Bool.and_eq_true, beq_iff_eq] at h
          exact h.2 }
  · intro hv
    have hq : QueueLegal s.params.maxEvents img.queue img.nextId img.nextSeq :=
      { capacity := hv.capacity
        ids := hv.ids.1
        idPos := hv.ids.2
        periods := fun e he => period_ne_zero_iff.2 (hv.periods e he)
        idBelow := or_iff_not_imp_left.2 hv.idsBelow
        seqBelow := hv.seqs.2
        seqs := hv.seqs.1 }
    simp only [snapshotValid, Bool.and_eq_true, List.all_eq_true]
    refine ⟨⟨⟨⟨fun b _ => slotFits_iff_forall.2 (hv.slots b), hv.canonical⟩, hv.cells⟩, queueValid_iff.2 hq⟩, ?_⟩
    split
    · rename_i ho
      exact beq_iff_eq.2 (hv.latches _ ho)
    · rfl
    · rfl

/-! ### The checks of restore -/

section
variable {s : State} {img : Snapshot}

theorem restoreSnapshot_config (hp : s.phase = .config) : restoreSnapshot img s = .next (afterFault .phase s) :=
  inPhase_of_not_mem (halted_eq_false_iff.2 (.inl hp)) (by simp [hp])

theorem restoreSnapshot_context (hp : s.phase = .run) (hc : s.ctx ≠ .top ∨ s.pumping = true) :
    restoreSnapshot img s = .next (afterFault .context s) := by
  rw [restoreSnapshot, inPhase_run hp, if_pos hc, raiseFault_eq]

variable (hp : s.phase = .run) (hctx : s.ctx = .top) (hpump : s.pumping = false)
include hp hctx hpump

theorem restoreSnapshot_invalid (hv : ¬ ValidImage s img) :
    restoreSnapshot img s = .next (afterFault .restore s) := by
  rw [restoreSnapshot, inPhase_run hp, if_neg (by simp [hctx, hpump]),
    if_pos (Bool.eq_false_iff.2 (mt snapshotValid_iff.1 hv)), raiseFault_eq]

theorem restoreSnapshot_valid (hv : ValidImage s img) : restoreSnapshot img s = .next (restoreState img s) := by
  rw [restoreSnapshot, inPhase_run hp, if_neg (by simp [hctx, hpump]), if_neg (by simp [snapshotValid_iff.2 hv])]

end

/-! ### What a restore loads -/

theorem ValidImage.bankAt_restoreState {s : State} {img : Snapshot} (hv : ValidImage s img) (b : Nat) :
    bankAt (restoreState img s) b = (img.banks[b]?).join :=
  Machine.bankAt_restoreState (slotFits_iff_forall.2 (hv.slots b))

/-- Under LastDriven a restore sets the latch of every space that exists (60_exceptions.md R345). -/
theorem ValidImage.latch_restoreState {s : State} {img : Snapshot} (hv : ValidImage s img) {v0 : Byte}
    (ho : s.params.openBus = .lastDriven v0) {sp : Sel} (hsp : sp.toNat < s.params.numSpaces) :
    img.busLatch[sp.toNat]? = some ((restoreState img s).busLatch[sp.toNat]'sp.isLt) := by
  have hlt : sp.toNat < img.busLatch.length := (hv.latches v0 ho).symm ▸ hsp
  simp [restoredLatches, ho, hlt]

theorem latches_restoreState {s : State} (img : Snapshot) (ho : ∀ v0, s.params.openBus ≠ .lastDriven v0) :
    (restoreState img s).busLatch = s.busLatch := by
  rw [restoreState_busLatch, restoredLatches]
  cases h : s.params.openBus with
  | lastDriven v0 => exact absurd h (ho v0)
  | draw | fixed => rfl

/-! ### The step at a host operation -/

/-- A save that stands first is served in every phase (60_exceptions.md R347). -/
theorem step_save {s : State} {rest : List Input} (hin : s.inbox = .save :: rest) :
    step s = serveHost .save rest s := by
  cases hs : s.halted with
  | true => exact (step_of_halted hs).trans (servePast_append (pre := []) _ hin nofun rfl)
  | false => rw [step, hs, hin]; rfl

section
variable {s : State} (hs : s.halted = false) {rest : List Input}
include hs

theorem step_hostOperation {op : Input} (hop : isHostOperation op = true) (hin : s.inbox = op :: rest) :
    step s = serveHost op rest s := by
  rw [step, hs, hin]
  cases op with
  | save | restore | reset => rfl
  | header | operand => cases hop

theorem step_operand {w : Word64} (hin : s.inbox = .operand w :: rest) :
    step s = servePast isReset (.refused .misframed) s := by
  rw [step, hs, hin]
  rfl

/-- A host operation behind too few operand words (log 25). -/
theorem step_interrupted {h : Word32} {ws : List Word64} {op : Input} (hn : ws.length < operandCount h)
    (hop : isHostOperation op = true) (hin : s.inbox = groupInputs (h, ws) ++ op :: rest) :
    step s = serveHost op (if isReset op then rest else groupInputs (h, ws) ++ rest) s := by
  have hwords : ∀ i ∈ groupInputs (h, ws), isHostOperation i = false := by
    simp [groupInputs, isHostOperation]
  rw [← servePast_append (.refused .misframed) hin hwords hop, step, hs, hin]
  simp only [groupInputs, List.cons_append, takeOperands_interrupted rest hn hop]
  rfl

end

/-- A host operation takes the inputs it leaves in place of those it finds. -/
theorem serveHost_withInbox (i : Input) (rest inbox : List Input) (s : State) :
    serveHost i rest { s with inbox := inbox } = serveHost i rest s := by
  cases i <;> rfl

theorem step_withHostOperation {s : State} (hs : s.halted = false) {op : Input} (hop : isHostOperation op = true)
    (rest : List Input) : step { s with inbox := op :: rest } = serveHost op rest s :=
  (step_hostOperation (s := { s with inbox := op :: rest }) hs hop rfl).trans (serveHost_withInbox ..)

/-- Settles O51: the checks of restore one rule each, and a host operation behind words as if it stood first. -/
theorem saveAndRestoreSteps : Obligations.SaveAndRestoreSteps := by
  intro s img rest
  refine ⟨step_save, fun hin => ⟨fun hp => ?config, fun hp => ⟨fun hc => ?context, fun hctx hpump =>
    ⟨fun hv => ?invalid, fun hv => ?valid⟩⟩⟩, fun hs =>
    ⟨fun h ws op hn hop hin => ?behindGroup, fun h ws hn hin => ?resetBehindGroup,
      fun w pre hpre hin => ?resetBehindWord⟩⟩
  case config =>
    exact (step_hostOperation (halted_eq_false_iff.2 (.inl hp)) rfl hin).trans (restoreSnapshot_config hp)
  case context => exact (step_hostOperation (halted_of_run hp) rfl hin).trans (restoreSnapshot_context hp hc)
  case invalid =>
    refine (step_hostOperation (halted_of_run hp) rfl hin).trans (restoreSnapshot_invalid hp hctx hpump ?_)
    exact fun h => hv { h with }
  case valid =>
    have hv' : ValidImage { s with inbox := rest } img := { hv with }
    exact ⟨_, (step_hostOperation (halted_of_run hp) rfl hin).trans (restoreSnapshot_valid hp hctx hpump hv'), rfl,
      hv'.bankAt_restoreState, fun v0 ho sp hsp => hv'.latch_restoreState ho hsp, latches_restoreState img⟩
  case behindGroup =>
    have hhost : isHostOperation op = true := by obtain rfl | rfl := hop <;> rfl
    have hstays : isReset op = false := by obtain rfl | rfl := hop <;> rfl
    rw [step_interrupted hs hn hhost hin, step_withHostOperation hs hhost, hstays]
    rfl
  case resetBehindGroup =>
    rw [step_interrupted hs hn rfl hin, step_withHostOperation hs rfl]
    rfl
  case resetBehindWord =>
    have hwords : ∀ i ∈ .operand w :: pre, isReset i = false := by
      intro i hi
      cases i with
      | reset => exact absurd rfl ((List.mem_cons.1 hi).elim nofun (hpre .reset))
      | _ => rfl
    rw [step_operand hs hin, servePast_append _ hin hwords rfl, step_withHostOperation hs rfl]
    rfl

end Sys2Proof.Machine

/-! ## After a restore

The commands that follow a restore do what they would do after the save (60_exceptions.md R348): two states that agree
in everything a command reads lead to states that agree again, with the same responses and records added. -/

namespace Sys2Proof.Machine

/-! ### States that agree in what commands read -/

/-- What no command reads, or none reads in full: the defer bits of the queue are seen by a pump under way alone, and the
latches of spaces that do not exist by no command. -/
structure Aside where
  queue : List Event
  busLatch : Vector Byte 16
  cfgError : Option CfgError
  fault : Option FaultRecord
  trace : List TraceRec
  cmdCount : Word64
  inbox : List Input
  responses : List Word64
  saves : List Snapshot

def aside (s : State) : Aside :=
  ⟨s.queue, s.busLatch, s.cfgError, s.fault, s.trace, s.cmdCount, s.inbox, s.responses, s.saves⟩

/-- The state with other values aside. -/
def withAside (o : Aside) (s : State) : State :=
  { s with
    queue := o.queue, busLatch := o.busLatch, cfgError := o.cfgError, fault := o.fault, trace := o.trace
    cmdCount := o.cmdCount, inbox := o.inbox, responses := o.responses, saves := o.saves }

/-- The event as a pump sees it at its start (44_scheduler.md R251). -/
def undefer (e : Event) : Event :=
  { e with defer := false }

/-- From a to c and from b to d the same was appended. -/
def SameGrowth {α : Type} (a b c d : List α) : Prop :=
  ∃ l, c = a ++ l ∧ d = b ++ l

theorem SameGrowth.append {α : Type} {a b c d : List α} (h : SameGrowth a b c d) (x : α) :
    SameGrowth a b (c ++ [x]) (d ++ [x]) := by
  obtain ⟨l, rfl, rfl⟩ := h
  exact ⟨l ++ [x], by simp, by simp⟩

/-- v and w, reached from s and u, agree in what a command reads, and the same responses and records were added. -/
structure Twin (s u v w : State) : Prop where
  same : w = withAside (aside w) v
  started : v.phase ≠ .config
  /-- The defer bits may differ: STEP clears them before it pumps. -/
  queue : w.queue.map undefer = v.queue.map undefer
  /-- A pump that has yet to go on sees them, so that within it the queues are equal. -/
  pumpQueue : (∃ id, v.cont = some (.callback id)) → w.queue = v.queue
  latches : ∀ v0, v.params.openBus = .lastDriven v0 → ∀ sp : Sel, sp.toNat < v.params.numSpaces →
    busLatchOf w sp = busLatchOf v sp
  responses : SameGrowth s.responses u.responses v.responses w.responses
  trace : SameGrowth s.trace u.trace v.trace w.trace

/-- Two outcomes of a command: next states that agree, or the same stop. -/
inductive Alike (s u : State) : Result → Result → Prop
  | next {v w : State} (h : Twin s u v w) : Alike s u (.next v) (.next w)
  | fault (r : Fault) : Alike s u (.fault r) (.fault r)

/-- Two outcomes of an operation that can end the command: related values, or outcomes of the command that agree. -/
def ExceptAlike (s u : State) {α : Type} (P : α → α → Prop) (x y : Except Result α) : Prop :=
  (∃ a b, x = .ok a ∧ y = .ok b ∧ P a b) ∨ ∃ r r', x = .error r ∧ y = .error r' ∧ Alike s u r r'

theorem ExceptAlike.imp {s u : State} {α : Type} {P Q : α → α → Prop} {x y : Except Result α}
    (h : ExceptAlike s u P x y) (hPQ : ∀ a b, P a b → Q a b) : ExceptAlike s u Q x y :=
  h.imp_left fun ⟨a, b, hx, hy, hab⟩ => ⟨a, b, hx, hy, hPQ a b hab⟩

section
variable {s u v w : State}

/-- The two sides make the same check. -/
theorem Alike.ite {p q : Prop} [Decidable p] [Decidable q] {a a' b b' : Result} (hpq : q = p)
    (ha : p → Alike s u a a') (hb : ¬p → Alike s u b b') :
    Alike s u (if p then a else b) (if q then a' else b') := by
  subst hpq
  by_cases hq : q
  · rw [if_pos hq, if_pos hq]
    exact ha hq
  · rw [if_neg hq, if_neg hq]
    exact hb hq

/-! ### What the two states read alike -/

/-- What does not look aside reads the same in both. -/
theorem Twin.read (h : Twin s u v w) {α : Type} (f : State → α) (hf : ∀ o x, f (withAside o x) = f x) : f w = f v :=
  (congrArg f h.same).trans (hf _ _)

theorem Twin.params_eq (h : Twin s u v w) : w.params = v.params := h.read State.params fun _ _ => rfl
theorem Twin.elapsed_eq (h : Twin s u v w) : w.elapsed = v.elapsed := h.read State.elapsed fun _ _ => rfl
theorem Twin.geo_eq (h : Twin s u v w) : w.geo = v.geo := h.read State.geo fun _ _ => rfl
theorem Twin.nextId_eq (h : Twin s u v w) : w.nextId = v.nextId := h.read State.nextId fun _ _ => rfl
theorem Twin.nextSeq_eq (h : Twin s u v w) : w.nextSeq = v.nextSeq := h.read State.nextSeq fun _ _ => rfl
theorem Twin.cont_eq (h : Twin s u v w) : w.cont = v.cont := h.read State.cont fun _ _ => rfl
theorem Twin.phase_eq (h : Twin s u v w) : w.phase = v.phase := h.read State.phase fun _ _ => rfl
theorem Twin.ctx_eq (h : Twin s u v w) : w.ctx = v.ctx := h.read State.ctx fun _ _ => rfl
theorem Twin.draws_eq (h : Twin s u v w) : w.draws = v.draws := h.read State.draws fun _ _ => rfl
theorem Twin.halted_eq (h : Twin s u v w) : w.halted = v.halted := h.read State.halted fun _ _ => rfl

theorem Twin.bankAt_eq (h : Twin s u v w) (b : Nat) : bankAt w b = bankAt v b :=
  h.read (bankAt · b) fun _ _ => rfl

theorem Twin.namedBank_eq (h : Twin s u v w) (b : Sel) : namedBank w b = namedBank v b :=
  h.read (namedBank · b) fun _ _ => rfl

theorem Twin.spaceAw_eq (h : Twin s u v w) (sp : Sel) : spaceAw w sp = spaceAw v sp :=
  h.read (spaceAw · sp) fun _ _ => rfl

theorem Twin.portList_eq (h : Twin s u v w) (n : Nat) : portList w n = portList v n :=
  h.read (portList · n) fun _ _ => rfl

theorem Twin.unitPolicy_eq (h : Twin s u v w) (n : Nat) : unitPolicy w n = unitPolicy v n :=
  h.read (unitPolicy · n) fun _ _ => rfl

theorem Twin.cell_eq (h : Twin s u v w) (b : Nat) (i : Word16) (off : Word32) : w.cell b i off = v.cell b i off :=
  h.read (State.cell · b i off) fun _ _ => rfl

theorem Twin.lookup_eq (h : Twin s u v w) (sp : Sel) (d : Dir) (a : Word32) : lookup w sp d a = lookup v sp d a :=
  h.read (lookup · sp d a) fun _ _ => rfl

theorem Twin.queryTime_eq (h : Twin s u v w) (now : Bool) (t : Word64) : queryTime now t w = queryTime now t v :=
  h.read (queryTime now t) fun _ _ => rfl

theorem Twin.queue_length (h : Twin s u v w) : w.queue.length = v.queue.length := by
  simpa using congrArg List.length h.queue

/-! ### Updates -/

/-- An update that does not look aside keeps the two the same but for what is aside. -/
theorem Twin.same_after (h : Twin s u v w) (f : State → State)
    (hf : ∀ o, f (withAside o v) = withAside (aside (f (withAside o v))) (f v)) :
    f w = withAside (aside (f w)) (f v) := by
  have hw := hf (aside w)
  rwa [← h.same] at hw

theorem Twin.after_respond (h : Twin s u v w) (x : Word64) : Twin s u (respond x v) (respond x w) :=
  { h with same := h.same_after (respond x) fun _ => rfl, responses := h.responses.append x }

theorem Twin.after_emit (h : Twin s u v w) (r : TraceRec) : Twin s u (emit r v) (emit r w) :=
  { h with same := h.same_after (emit r) fun _ => rfl, trace := h.trace.append r }

theorem Twin.raiseFault_alike (h : Twin s u v w) (c : FaultCode) : Alike s u (raiseFault c v) (raiseFault c w) :=
  .next { h with
    same := h.same_after (faultState c (currentIndex w)) fun _ => rfl
    started := nofun
    trace := h.trace.append _ }

/-- An invocation; a callback's comes with equal queues. -/
theorem Twin.after_invoke (h : Twin s u v w) (r : TraceRec) (c : Ctx) (k : Cont)
    (hq : (∃ id, k = .callback id) → w.queue = v.queue) : Twin s u (invoke r c k v) (invoke r c k w) :=
  { h with
    same := h.same_after (invoke r c k) fun _ => rfl
    pumpQueue := fun ⟨id, hk⟩ => hq ⟨id, Option.some.inj hk⟩
    trace := h.trace.append r }

theorem Twin.after_endInvocation (h : Twin s u v w) : Twin s u (endInvocation v) (endInvocation w) :=
  { h with same := h.same_after endInvocation fun _ => rfl, pumpQueue := nofun }

theorem Twin.after_draw (h : Twin s u v w) : Twin s u { v with draws := v.draws + 1 } { w with draws := w.draws + 1 } :=
  { h with same := h.same_after (fun x => { x with draws := x.draws + 1 }) fun _ => rfl }

theorem Twin.after_setBank (h : Twin s u v w) (b : Nat) (k : Bank) : Twin s u (setBank b k v) (setBank b k w) :=
  { h with same := h.same_after (setBank b k) fun _ => rfl }

theorem Twin.after_setCell (h : Twin s u v w) (b : Nat) (i : Word16) (off : Word32) (x : Byte) :
    Twin s u (setCell b i off x v) (setCell b i off x w) :=
  { h with same := h.same_after (setCell b i off x) fun _ => rfl }

theorem Twin.withQueue (h : Twin s u v w) {q q' : List Event} (hq : q'.map undefer = q.map undefer)
    (hpump : (∃ id, v.cont = some (.callback id)) → q' = q) : Twin s u { v with queue := q } { w with queue := q' } :=
  { h with
    same := h.same_after (fun x => { x with queue := q' }) fun _ => rfl
    queue := hq
    pumpQueue := hpump }

theorem latchAfter_of_lastDriven {s : State} {v0 : Byte} (ho : s.params.openBus = .lastDriven v0) (sp : Sel)
    (v : Byte) : latchAfter s sp v = s.busLatch.set sp.toNat v sp.isLt := by
  rw [latchAfter, ho]

/-- Both latches of the space take the byte. -/
theorem Twin.after_driveBus (h : Twin s u v w) (sp : Sel) (x : Byte) :
    Twin s u (driveBus sp x v) (driveBus sp x w) := by
  rw [driveBus_eq, driveBus_eq]
  refine
    { h with
      same := h.same_after (fun y => { y with busLatch := latchAfter w sp x }) fun _ => rfl
      latches := fun v0 ho sp' hsp' => ?_ }
  have hv : v.params.openBus = .lastDriven v0 := ho
  have hw : w.params.openBus = .lastDriven v0 := h.params_eq ▸ hv
  change (latchAfter w sp x)[sp'.toNat]'sp'.isLt = (latchAfter v sp x)[sp'.toNat]'sp'.isLt
  have hold : w.busLatch[sp'.toNat]'sp'.isLt = v.busLatch[sp'.toNat]'sp'.isLt := h.latches v0 ho sp' hsp'
  simp only [latchAfter_of_lastDriven hv, latchAfter_of_lastDriven hw, Vector.getElem_set, hold]

theorem Twin.after_finishRead (h : Twin s u v w) (sp : Sel) (x : Byte) :
    Twin s u (finishRead sp x v) (finishRead sp x w) :=
  (h.after_driveBus sp x).after_respond _

/-- The open-bus value of a space that exists is the same byte on both sides. -/
theorem Twin.after_finishOpenBus (h : Twin s u v w) {sp : Sel} (hsp : sp.toNat < v.params.numSpaces) :
    Twin s u (finishOpenBus sp v) (finishOpenBus sp w) := by
  have hbus : (openBus sp w).1 = (openBus sp v).1 ∧ Twin s u (openBus sp v).2 (openBus sp w).2 := by
    have ho : w.params.openBus = v.params.openBus := by rw [h.params_eq]
    unfold openBus
    rw [ho]
    cases hcase : v.params.openBus with
    | draw => exact ⟨congrArg Config.freeByte h.draws_eq, h.after_draw⟩
    | fixed x => exact ⟨rfl, h⟩
    | lastDriven v0 => exact ⟨h.latches v0 hcase sp hsp, h⟩
  rw [finishOpenBus, finishOpenBus, hbus.1]
  exact hbus.2.after_finishRead sp _

/-! ### Checks and queries -/

theorem Twin.inPhase_alike (h : Twin s u v w) {ps : List Phase} {body body' : Result} (hb : Alike s u body body') :
    Alike s u (inPhase ps v body) (inPhase ps w body') :=
  .ite (by rw [h.halted_eq]) (fun _ => .fault _) fun _ =>
    .ite (by rw [h.phase_eq]) (fun _ => hb) fun _ => h.raiseFault_alike _

/-- Past phase Config a registration command does nothing but raise F_PHASE (40_config.md R140). -/
theorem Twin.registration_alike (h : Twin s u v w) {i : Instr} (hi : i.opcode ∈ registrationOpcodes) :
    Alike s u (exec i v) (exec i w) := by
  cases hs : v.halted with
  | true =>
    rw [exec_of_halted hs, exec_of_halted (h.halted_eq.trans hs)]
    exact .fault _
  | false =>
    rw [exec_registration_of_ne_config hi hs h.started,
      exec_registration_of_ne_config hi (h.halted_eq.trans hs) (h.phase_eq ▸ h.started)]
    exact h.raiseFault_alike _

theorem Twin.rasterQuery_alike (h : Twin s u v w) {f f' : Geometry → Word64} (hf : f' = f) :
    Alike s u (rasterQuery v f) (rasterQuery w f') := by
  refine h.inPhase_alike ?_
  rw [hf, h.geo_eq]
  cases v.geo with
  | none => exact .fault _
  | some g => exact .next (h.after_respond _)

theorem Twin.execRcNow_alike (h : Twin s u v w) : Alike s u (execRcNow v) (execRcNow w) := by
  refine h.inPhase_alike ?_
  rw [h.elapsed_eq]
  exact .next (h.after_respond _)

theorem Twin.execBankActive_alike (h : Twin s u v w) (b : Sel) :
    Alike s u (execBankActive b v) (execBankActive b w) := by
  refine h.inPhase_alike ?_
  rw [h.namedBank_eq]
  cases namedBank v b with
  | none => exact h.raiseFault_alike _
  | some k => exact .next (h.after_respond _)

/-! ### Bank operations and port dispatch -/

theorem Twin.bankSelect_alike (h : Twin s u v w) (b : Nat) (x : Word16) :
    ExceptAlike s u (Twin s u) (bankSelect b x v) (bankSelect b x w) := by
  have ho : w.params.bankOor = v.params.bankOor := by rw [h.params_eq]
  unfold bankSelect
  rw [h.bankAt_eq, ho]
  cases bankAt v b with
  | none => exact .inr ⟨_, _, rfl, rfl, .fault _⟩
  | some k =>
    dsimp only
    split_ifs
    · exact .inl ⟨_, _, rfl, rfl, h.after_setBank _ _⟩
    · cases v.params.bankOor with
      | fault => exact .inr ⟨_, _, rfl, rfl, h.raiseFault_alike _⟩
      | modulo => exact .inl ⟨_, _, rfl, rfl, h.after_setBank _ _⟩
      | ignore => exact .inl ⟨_, _, rfl, rfl, h⟩

theorem Twin.bufRead_alike (h : Twin s u v w) (b : Nat) (off : Word32) :
    ExceptAlike s u Eq (bufRead b off v) (bufRead b off w) := by
  unfold bufRead
  rw [h.bankAt_eq]
  cases bankAt v b with
  | none => exact .inr ⟨_, _, rfl, rfl, .fault _⟩
  | some k =>
    dsimp only
    rw [h.cell_eq]
    split_ifs
    · exact .inr ⟨_, _, rfl, rfl, .fault _⟩
    · cases v.cell b k.sel off with
      | none => exact .inr ⟨_, _, rfl, rfl, h.raiseFault_alike _⟩
      | some x => exact .inl ⟨_, _, rfl, rfl, rfl⟩

theorem Twin.bufWrite_alike (h : Twin s u v w) (b : Nat) (off : Word32) (x : Byte) :
    ExceptAlike s u (Twin s u) (bufWrite b off x v) (bufWrite b off x w) := by
  unfold bufWrite
  rw [h.bankAt_eq]
  cases bankAt v b with
  | none => exact .inr ⟨_, _, rfl, rfl, .fault _⟩
  | some k =>
    dsimp only
    split_ifs
    · exact .inr ⟨_, _, rfl, rfl, .fault _⟩
    · exact .inl ⟨_, _, rfl, rfl, h.after_setCell b k.sel off x⟩

theorem Twin.execBankSelect_alike (h : Twin s u v w) (b : Sel) (x : Word16) :
    Alike s u (execBankSelect b x v) (execBankSelect b x w) := by
  refine h.inPhase_alike ?_
  rw [h.namedBank_eq]
  cases namedBank v b with
  | none => exact h.raiseFault_alike _
  | some k =>
    obtain ⟨v', w', hv, hw, h'⟩ | ⟨r, r', hv, hw, hr⟩ := h.bankSelect_alike b.toNat x <;> rw [hv, hw]
    · exact .next h'
    · exact hr

theorem Twin.dispatchWrite_alike (h : Twin s u v w) (n : Word16) (o : Word32) (x : Byte) (sp : Sel) (k : Nat)
    (es : List PortEntry) : Alike s u (dispatchWrite n o x sp k es v) (dispatchWrite n o x sp k es w) := by
  induction es generalizing k v w with
  | nil => exact .next (h.after_driveBus sp x)
  | cons e es ih =>
    rw [dispatchWrite, dispatchWrite]
    refine .ite rfl (fun _ => ?_) fun _ => ih h _
    cases e.tkind with
    | device => exact .next (h.after_invoke _ _ _ nofun)
    | banksel =>
      dsimp only
      obtain ⟨v', w', hv, hw, h'⟩ | ⟨r, r', hv, hw, hr⟩ := h.bankSelect_alike e.tid.toNat (x.setWidth 16) <;>
        rw [hv, hw]
      · exact ih h' _
      · exact hr
    | bank | ports => exact .fault _

/-- A read dispatch that can still end with the open-bus value is that of a space that exists. -/
theorem Twin.dispatchRead_alike (h : Twin s u v w) (n : Word16) (o : Word32) {sp : Sel} {acc : Option Byte}
    (hacc : acc = none → sp.toNat < v.params.numSpaces) (k : Nat) (es : List PortEntry) :
    Alike s u (dispatchRead n o sp acc k es v) (dispatchRead n o sp acc k es w) := by
  induction es generalizing k with
  | nil =>
    cases acc with
    | none => exact .next (h.after_finishOpenBus (hacc rfl))
    | some x => exact .next (h.after_finishRead sp x)
  | cons e es ih =>
    rw [dispatchRead, dispatchRead]
    refine .ite rfl (fun _ => ?_) fun _ => ih _
    cases e.tkind with
    | device => exact .next (h.after_invoke _ _ _ nofun)
    | banksel | bank | ports => exact .fault _

theorem Twin.portWrite_alike (h : Twin s u v w) (n : Word16) (o : Word32) (x : Byte) (sp : Sel) (k : Nat) :
    Alike s u (portWrite n o x sp k v) (portWrite n o x sp k w) := by
  rw [portWrite, portWrite, h.portList_eq]
  cases portList v n.toNat with
  | none => exact .fault _
  | some es => exact h.dispatchWrite_alike n o x sp k _

theorem Twin.portRead_alike (h : Twin s u v w) (n : Word16) (o : Word32) {sp : Sel} {acc : Option Byte}
    (hacc : acc = none → sp.toNat < v.params.numSpaces) (k : Nat) :
    Alike s u (portRead n o sp acc k v) (portRead n o sp acc k w) := by
  rw [portRead, portRead, h.portList_eq]
  cases portList v n.toNat with
  | none => exact .fault _
  | some es => exact h.dispatchRead_alike n o hacc k _

/-! ### READ and WRITE -/

theorem Twin.accessChecks_alike (h : Twin s u v w) {sp : Sel} {wid : BitVec 2} {a : Word32} {body body' : Result}
    (hb : sp.toNat < v.params.numSpaces → Alike s u body body') :
    Alike s u (accessChecks sp wid a v body) (accessChecks sp wid a w body') :=
  h.inPhase_alike <|
    .ite (by rw [h.ctx_eq]) (fun _ => h.raiseFault_alike _) fun _ =>
    .ite (by rw [h.params_eq]) (fun _ => h.raiseFault_alike _) fun hsp =>
    .ite rfl (fun _ => h.raiseFault_alike _) fun _ =>
    .ite (by rw [h.spaceAw_eq]) (fun _ => h.raiseFault_alike _) fun _ => hb (not_le.1 hsp)

theorem Twin.readTarget_alike (h : Twin s u v w) {sp : Sel} (hsp : sp.toNat < v.params.numSpaces) (a : Word32)
    (e : RangeEntry) : Alike s u (readTarget sp a e v) (readTarget sp a e w) := by
  rw [readTarget, readTarget]
  cases e.tkind with
  | device => exact .next (h.after_invoke _ _ _ nofun)
  | bank =>
    dsimp only
    obtain ⟨x, _, hv, hw, rfl⟩ | ⟨r, r', hv, hw, hr⟩ := h.bufRead_alike e.tid.toNat (rangeOffset a e) <;> rw [hv, hw]
    · exact .next (h.after_finishRead sp x)
    · exact hr
  | ports => exact h.portRead_alike _ _ (fun _ => hsp) _
  | banksel => exact .fault _

theorem Twin.writeTarget_alike (h : Twin s u v w) (sp : Sel) (x : Byte) (a : Word32) (e : RangeEntry) :
    Alike s u (writeTarget sp x a e v) (writeTarget sp x a e w) := by
  rw [writeTarget, writeTarget]
  cases e.tkind with
  | device => exact .next (h.after_invoke _ _ _ nofun)
  | bank =>
    dsimp only
    obtain ⟨v', w', hv, hw, h'⟩ | ⟨r, r', hv, hw, hr⟩ := h.bufWrite_alike e.tid.toNat (rangeOffset a e) x <;>
      rw [hv, hw]
    · exact .next (h'.after_driveBus sp x)
    · exact hr
  | ports => exact h.portWrite_alike _ _ _ _ _
  | banksel =>
    dsimp only
    obtain ⟨v', w', hv, hw, h'⟩ | ⟨r, r', hv, hw, hr⟩ := h.bankSelect_alike e.tid.toNat (x.setWidth 16) <;>
      rw [hv, hw]
    · exact .next (h'.after_driveBus sp x)
    · exact hr

theorem Twin.execRead_alike (h : Twin s u v w) (sp : Sel) (wid : BitVec 2) (a : Word32) :
    Alike s u (execRead sp wid a v) (execRead sp wid a w) := by
  refine h.accessChecks_alike fun hsp => ?_
  rw [h.lookup_eq]
  cases lookup v sp .r a with
  | none => exact .next ((h.after_emit _).after_finishOpenBus hsp)
  | some e => exact h.readTarget_alike hsp a e

theorem Twin.execWrite_alike (h : Twin s u v w) (sp : Sel) (wid : BitVec 2) (x : Byte) (a : Word32) :
    Alike s u (execWrite sp wid x a v) (execWrite sp wid x a w) := by
  refine h.accessChecks_alike fun _ => ?_
  rw [h.lookup_eq]
  cases lookup v sp .w a with
  | none => exact .next ((h.after_emit _).after_driveBus sp x)
  | some e => exact h.writeTarget_alike sp x a e

/-! ### The queue -/

theorem map_undefer_putEvent (e : Event) (q : List Event) :
    (putEvent e q).map undefer = putEvent (undefer e) (q.map undefer) := by
  by_cases h : ∃ x ∈ q, x.id = e.id
  · rw [putEvent_of_mem h, putEvent_of_mem (by simpa [undefer] using h), List.map_map, List.map_map]
    exact List.map_congr_left fun x _ => apply_ite undefer (x.id = e.id) e x
  · have h : ∀ x ∈ q, x.id ≠ e.id := by simpa using h
    rw [putEvent_of_not_mem h, putEvent_of_not_mem (by simpa [undefer] using h), List.map_append]
    rfl

theorem map_undefer_removeEvent (id : Word32) (q : List Event) :
    (removeEvent id q).map undefer = removeEvent id (q.map undefer) := by
  rw [removeEvent, removeEvent, List.filter_map]
  rfl

/-- The state in which the queue holds e, armed (44_scheduler.md R241). -/
def armed (e : Event) (s : State) : State :=
  { s with
    nextSeq := s.nextSeq + 1
    queue := putEvent { e with seq := s.nextSeq, defer := s.ctx == .callback } s.queue }

/-- Arming keeps equal queues equal. -/
theorem Twin.arm_alike (h : Twin s u v w) (e : Event) :
    ExceptAlike s u (fun v' w' => Twin s u v' w' ∧ (w.queue = v.queue → w'.queue = v'.queue)) (arm e v) (arm e w) := by
  have hput : w.queue = v.queue → (armed e w).queue = (armed e v).queue := by
    intro hq
    simp only [armed, hq, h.nextSeq_eq, h.ctx_eq]
  unfold arm
  by_cases hseq : v.nextSeq = BitVec.allOnes 64
  · rw [if_pos hseq, if_pos (h.nextSeq_eq.trans hseq)]
    exact .inr ⟨_, _, rfl, rfl, h.raiseFault_alike _⟩
  · rw [if_neg hseq, if_neg (h.nextSeq_eq ▸ hseq)]
    refine .inl ⟨armed e v, armed e w, rfl, rfl, ?_, hput⟩
    exact { h with
      same := h.same_after (armed e) fun _ => rfl
      queue := by simp only [armed, map_undefer_putEvent, h.queue, h.nextSeq_eq, h.ctx_eq]
      pumpQueue := fun hk => hput (h.pumpQueue hk) }

theorem Twin.allocId_alike (h : Twin s u v w) :
    ExceptAlike s u (fun p q => q.1 = p.1 ∧ Twin s u p.2 q.2) (allocId v) (allocId w) := by
  unfold allocId
  by_cases hid : v.nextId = 0
  · rw [if_pos hid, if_pos (h.nextId_eq.trans hid)]
    exact .inr ⟨_, _, rfl, rfl, h.raiseFault_alike _⟩
  · rw [if_neg hid, if_neg (h.nextId_eq ▸ hid)]
    refine .inl ⟨_, _, rfl, rfl, h.nextId_eq, ?_⟩
    exact { h with same := h.same_after (fun x => { x with nextId := x.nextId + 1 }) fun _ => rfl }

theorem Twin.schedule_alike (h : Twin s u v w) (delay : Word64) (period : Option Word64) (tag : Word32) :
    Alike s u (schedule delay period tag v) (schedule delay period tag w) := by
  refine .ite (by rw [h.elapsed_eq]) (fun _ => h.raiseFault_alike _) fun _ =>
    .ite (by rw [h.params_eq, h.queue_length]) (fun _ => h.raiseFault_alike _) fun _ => ?_
  obtain ⟨⟨id, v'⟩, ⟨id', w'⟩, hv, hw, hid, h'⟩ | ⟨r, r', hv, hw, hr⟩ := h.allocId_alike <;> rw [hv, hw]
  · obtain rfl : id' = id := hid
    dsimp only
    rw [h.elapsed_eq]
    obtain ⟨v', w', hv, hw, h', -⟩ | ⟨r, r', hv, hw, hr⟩ := h'.arm_alike
      ⟨id', v.elapsed + delay, period, tag, 0, false⟩ <;> rw [hv, hw]
    · exact .next (h'.after_respond _)
    · exact hr
  · exact hr

theorem Twin.execCancel_alike (h : Twin s u v w) (id : Word32) : Alike s u (execCancel id v) (execCancel id w) :=
  h.inPhase_alike <| .next <| h.withQueue (by rw [map_undefer_removeEvent, map_undefer_removeEvent, h.queue])
    fun hk => by rw [h.pumpQueue hk]

/-! ### The pump -/

theorem Twin.after_pick (h : Twin s u v w) : Twin s u (afterPick v) (afterPick w) := by
  have ho : w.params.tieOrder = v.params.tieOrder := by rw [h.params_eq]
  unfold afterPick
  rw [ho]
  cases v.params.tieOrder with
  | fifo => exact h
  | any => exact h.after_draw

section
variable (h : Twin s u v w) (hq : w.queue = v.queue)
include h hq

theorem Twin.pickDue_eq : pickDue w = pickDue v := by
  have hdue : dueEvents w = dueEvents v := by
    rw [dueEvents, dueEvents, hq]
    exact List.filter_congr fun e _ => by rw [isDue, isDue, h.elapsed_eq]
  simp only [pickDue, hdue, h.params_eq, h.draws_eq]

theorem Twin.fireEvent_alike (e : Event) :
    ExceptAlike s u (fun v' w' => Twin s u v' w' ∧ w'.queue = v'.queue) (fireEvent e v) (fireEvent e w) := by
  rw [fireEvent, fireEvent, hq]
  cases e.period with
  | none => exact .inl ⟨_, _, rfl, rfl, h.withQueue rfl fun _ => rfl, rfl⟩
  | some p =>
    dsimp only
    split_ifs
    · exact .inr ⟨_, _, rfl, rfl, h.raiseFault_alike _⟩
    · exact (Twin.arm_alike (h.withQueue rfl fun _ => rfl) _).imp fun _ _ h' => ⟨h'.1, h'.2 rfl⟩

/-- With equal queues the pump fires the same event. -/
theorem Twin.pumpContinue_alike : Alike s u (pumpContinue v) (pumpContinue w) := by
  rw [pumpContinue, pumpContinue, h.pickDue_eq hq]
  cases pickDue v with
  | none => exact .next { h with same := h.same_after (fun x => { x with pumping := false }) fun _ => rfl }
  | some e =>
    dsimp only
    obtain ⟨v', w', hv, hw, h', hq'⟩ | ⟨r, r', hv, hw, hr⟩ := h.after_pick.fireEvent_alike (by simpa using hq) e <;>
      rw [hv, hw]
    · exact .next (h'.after_invoke _ _ _ fun _ => hq')
    · exact hr

end

/-- STEP clears every defer bit before it pumps, so that its pump sees equal queues (44_scheduler.md R251). -/
theorem Twin.execStep_alike (h : Twin s u v w) (c : Word64) : Alike s u (execStep c v) (execStep c w) := by
  refine h.inPhase_alike <| .ite (by rw [h.ctx_eq]) (fun _ => h.raiseFault_alike _) fun _ =>
    .ite (by rw [h.elapsed_eq]) (fun _ => h.raiseFault_alike _) fun _ => Twin.pumpContinue_alike ?_ h.queue
  exact { h with
    same := h.same_after (fun x => pumpStart { x with elapsed := x.elapsed + c }) fun _ => rfl
    queue := congrArg (List.map undefer) h.queue
    pumpQueue := fun _ => h.queue }

theorem mergeRead_ne_none (p : Policy) (acc : Option Byte) (d : Byte) : mergeRead p acc d ≠ none := by
  cases p <;> exact nofun

/-- A callback's continuation sees the queue, and no resumed read ends with the open-bus value. -/
theorem Twin.resume_alike (h : Twin s u v w) (k : Cont) (d : Byte) (hq : (∃ id, k = .callback id) → w.queue = v.queue) :
    Alike s u (resume k d v) (resume k d w) := by
  cases k with
  | devRead sp => exact .next (h.after_finishRead sp d)
  | devWrite sp x => exact .next (h.after_driveBus sp x)
  | portIter n dir o x j acc sp =>
    cases dir with
    | w => exact h.portWrite_alike n o x sp j
    | r =>
      rw [resume, resume, h.unitPolicy_eq]
      exact h.portRead_alike n o (fun hacc => absurd hacc (mergeRead_ne_none _ _ _)) j
  | callback id => exact h.pumpContinue_alike (hq ⟨id, rfl⟩)

theorem Twin.execHret_alike (h : Twin s u v w) (d : Byte) : Alike s u (execHret d v) (execHret d w) := by
  refine h.inPhase_alike <| .ite (by rw [h.ctx_eq]) (fun _ => h.raiseFault_alike _) fun _ => ?_
  rw [h.cont_eq]
  cases hk : v.cont with
  | none => exact .fault _
  | some k =>
    refine h.after_endInvocation.resume_alike k d fun ⟨id, hid⟩ => h.pumpQueue ⟨id, ?_⟩
    rw [hk, hid]

/-! ### Runs -/

/-- A command does the same in states that agree in what it reads. -/
theorem Twin.exec_alike (h : Twin s u v w) (i : Instr) : Alike s u (exec i v) (exec i w) := by
  cases i with
  | cfgGeometry | cfgBank | cfgPortunit | regRange | regPort | start =>
    exact h.registration_alike (by simp [Instr.opcode, registrationOpcodes])
  | read sp wid a => exact h.execRead_alike sp wid a
  | write sp wid x a => exact h.execWrite_alike sp wid x a
  | step c => exact h.execStep_alike c
  | rcNow => exact h.execRcNow_alike
  | rcScanline now t | rcHpos now t | rcHblank now t | rcVblank now t | rcCblank now t | rcLinebit n now t =>
    exact h.rasterQuery_alike (by rw [h.queryTime_eq])
  | schedAfter delay tag => exact h.inPhase_alike (h.schedule_alike delay none tag)
  | schedPeriodic period tag =>
    exact h.inPhase_alike (.ite rfl (fun _ => h.raiseFault_alike _) fun _ => h.schedule_alike period (some period) tag)
  | cancel id => exact h.execCancel_alike id
  | bankSelect b x => exact h.execBankSelect_alike b x
  | bankActive b => exact h.execBankActive_alike b
  | hret d => exact h.execHret_alike d

theorem Twin.runCommands_next (h : Twin s u v w) (is : List Instr) {v' : State} (hr : runCommands is v = .next v') :
    ∃ w', runCommands is w = .next w' ∧ Twin s u v' w' := by
  induction is generalizing v w with
  | nil =>
    cases hr
    exact ⟨w, rfl, h⟩
  | cons i is ih =>
    rw [runCommands_cons] at hr
    rw [runCommands_cons]
    have hexec := h.exec_alike i
    generalize exec i v = r at hr hexec
    generalize exec i w = r' at hexec
    cases hexec with
    | next h' => exact ih h' hr
    | fault => cases hr

end

/-! ### The restored state -/

theorem banks_eq_of_bankAt {s t : State} (h : ∀ b, bankAt t b = bankAt s b) : t.banks = s.banks :=
  Vector.ext fun b hb => by simpa [bankAt, hb] using h b

theorem Inv.atTop {s : State} (h : Inv s) (hp : s.phase = .run) (hctx : s.ctx = .top) : AtTop s :=
  ⟨hp, hctx, h.ctxTop.1 hctx⟩

theorem Inv.pumping_of_atTop {s : State} (h : Inv s) (htop : AtTop s) : s.pumping = false := by
  rw [← Bool.not_eq_true, h.pump (by simp [htop.run]), htop.top]
  exact nofun

section
variable {s u : State}

theorem savedLatches_of_lastDriven {v0 : Byte} (ho : s.params.openBus = .lastDriven v0) :
    savedLatches s = s.busLatch.toList.take s.params.numSpaces := by
  rw [savedLatches, ho]

/-- A restore brings the saved latch of every space that exists back (60_exceptions.md R348). -/
theorem latch_restoreState_takeSnapshot (hv : ValidImage u (takeSnapshot s)) (hparams : u.params = s.params) {v0 : Byte}
    (ho : s.params.openBus = .lastDriven v0) {sp : Sel} (hsp : sp.toNat < s.params.numSpaces) :
    (restoreState (takeSnapshot s) u).busLatch[sp.toNat]'sp.isLt = s.busLatch[sp.toNat]'sp.isLt := by
  have hrestored := hv.latch_restoreState (hparams ▸ ho) (sp := sp) (hparams ▸ hsp)
  change (savedLatches s)[sp.toNat]? = _ at hrestored
  rw [savedLatches_of_lastDriven ho, List.getElem?_take_of_lt hsp, Vector.getElem?_toList,
    Vector.getElem?_eq_getElem sp.isLt] at hrestored
  exact (Option.some.inj hrestored).symm

/-- An image saved from a block of the same configuration is valid (60_exceptions.md R346, R348). -/
theorem Inv.validImage_takeSnapshot (hs : Inv s) (hparams : u.params = s.params) (hshape : SameShape s u) :
    ValidImage u (takeSnapshot s) where
  slots b := by
    change (bankAt s b = none ↔ bankAt u b = none) ∧ ∀ k k', bankAt u b = some k → bankAt s b = some k' →
      k'.n = k.n ∧ k'.size = k.size ∧ k'.sel.toNat < k.n.toNat
    have hb := hshape b
    refine ⟨by rw [← Option.map_eq_none_iff, ← hb, Option.map_eq_none_iff], fun k k' hk hk' => ?_⟩
    obtain ⟨hn, hz⟩ : k.n = k'.n ∧ k.size = k'.size := by simpa [hk, hk'] using hb
    exact ⟨hn.symm, hz.symm, hn ▸ (hs.banks b k' hk').selected⟩
  cells c hc := hshape.banksKept.cellExists (hs.memCells c hc)
  canonical := hparams ▸ hs.mem
  capacity := hparams ▸ hs.queueLegal.capacity
  ids := ⟨hs.queueLegal.ids, hs.queueLegal.idPos⟩
  periods e he := period_ne_zero_iff.1 (hs.queueLegal.periods e he)
  idsBelow := hs.queueLegal.idBelow.resolve_left
  seqs := ⟨hs.queueLegal.seqs, hs.queueLegal.seqBelow⟩
  latches v0 ho := by
    obtain ⟨⟨-, hle⟩, -⟩ := hs.params
    rw [hparams] at ho ⊢
    change (savedLatches s).length = _
    rw [savedLatches_of_lastDriven ho]
    simpa using hle

/-- The restored state and the state of the save agree in what a command reads, the draws being the same. -/
theorem twin_restoreState (hs : Inv s) (hu : Inv u) (hparams : u.params = s.params) (htables : TablesKept s u)
    (hstop : AtTop s) (hutop : AtTop u) :
    Twin s u { s with draws := u.draws } (restoreState (takeSnapshot s) u) where
  same := by
    have hbanks : (restoreState (takeSnapshot s) u).banks = s.banks :=
      banks_eq_of_bankAt (hs.validImage_takeSnapshot hparams htables.shape).bankAt_restoreState
    have hpump : u.pumping = s.pumping := (hu.pumping_of_atTop hutop).trans (hs.pumping_of_atTop hstop).symm
    have hcont : u.cont = s.cont := hutop.idle.trans hstop.idle.symm
    have hphase : u.phase = s.phase := hutop.run.trans hstop.run.symm
    have hctx : u.ctx = s.ctx := hutop.top.trans hstop.top.symm
    simp only [withAside, aside, ← hbanks, ← hparams, ← htables.geo, ← htables.ranges, ← htables.ports,
      ← htables.policy, ← hpump, ← hcont, ← hphase, ← hctx]
    rfl
  started := by simp [hstop.run]
  queue := by simp [undefer, takeSnapshot]
  pumpQueue := by simp [hstop.idle]
  latches _ ho _ hsp :=
    latch_restoreState_takeSnapshot (hs.validImage_takeSnapshot hparams htables.shape) hparams ho hsp
  responses := ⟨[], by simp, by simp⟩
  trace := ⟨[], by simp, by simp⟩

end

/-- Settles O50: the image is valid, and the runs after it agree command by command. -/
theorem saveRestoreRoundTrip : Obligations.SaveRestoreRoundTrip := by
  intro s u hs hu hparams hp hctx hshape
  have hv : ValidImage u (takeSnapshot s) := hs.validImage_takeSnapshot hparams hshape
  have hutop : AtTop u := hu.atTop hp hctx
  refine ⟨restoreState (takeSnapshot s) u, restoreSnapshot_valid hp hctx (hu.pumping_of_atTop hutop) hv, rfl,
    hv.bankAt_restoreState, fun b i off => ?cell, fun v0 ho sp hsp => ?latch,
    fun hsp hsctx hgeo hranges hports hpolicy is s' hrun => ?run⟩
  case cell =>
    rw [State.cell, State.cell, restoreState_params, hparams]
    rfl
  case latch => exact latch_restoreState_takeSnapshot hv hparams ho hsp
  case run =>
    have h := twin_restoreState hs hu hparams ⟨hranges, hports, hpolicy, hgeo, hshape⟩ (hs.atTop hsp hsctx) hutop
    obtain ⟨t', ht, h'⟩ := h.runCommands_next is hrun
    obtain ⟨resp, hresp, hresp'⟩ := h'.responses
    obtain ⟨recs, hrecs, hrecs'⟩ := h'.trace
    exact ⟨t', resp, recs, ht, hresp, hresp', hrecs, hrecs'⟩

end Sys2Proof.Machine

/-! ## Reset

The registers of a reset state at their reset values (70_reset_and_hazards.md R360). The inputs that wait and the count of
free values drawn are none of them. -/

namespace Sys2Proof.Machine

/-- A reset that stands first is served in every phase, Failed and Faulted among them (R360). -/
theorem step_reset {s : State} {rest : List Input} (hin : s.inbox = .reset :: rest) :
    step s = .next (serveReset rest s) := by
  cases hs : s.halted with
  | true => exact (step_of_halted hs).trans (servePast_append (pre := []) _ hin nofun rfl)
  | false => exact step_hostOperation hs rfl hin

section
variable (p : Params)

theorem rangeTable_resetWith (sp : Sel) (d : Dir) : rangeTable (State.resetWith p) sp d = [] := by
  cases d <;> simp [rangeTable, State.resetWith]

theorem portList_resetWith {u : Nat} {es : List PortEntry} (h : portList (State.resetWith p) u = some es) :
    es = [] := by
  obtain ⟨hu, he⟩ := Vector.getElem?_eq_some_iff.1 h
  exact he.symm.trans (Vector.getElem_replicate hu)

theorem unitPolicy_resetWith (u : Nat) : unitPolicy (State.resetWith p) u = .last := by
  rw [unitPolicy, State.resetWith, Vector.getElem?_replicate]
  split_ifs <;> rfl

theorem bankAt_resetWith (b : Nat) : bankAt (State.resetWith p) b = none := by
  rw [bankAt, State.resetWith, Vector.getElem?_replicate]
  split_ifs <;> rfl

/-- Under LastDriven(v0) every latch starts at v0 (10_state.md R37). -/
theorem busLatch_resetWith {v0 : Byte} (h : p.openBus = .lastDriven v0) (sp : Sel) :
    (State.resetWith p).busLatch[sp.toNat]'sp.isLt = v0 := by
  simp [State.resetWith, h, busLatchReset]

end

/-- Settles O52: both states are `State.resetWith` but for what waits at the interface and the draws counted. -/
theorem resetValues : Obligations.ResetValues := by
  intro s rest hin
  refine ⟨serveReset rest s, step_reset hin, rfl, fun t ht => ?_⟩
  obtain ⟨p, inbox, draws, rfl⟩ : ∃ p inbox draws, t = { State.resetWith p with inbox := inbox, draws := draws } := by
    obtain rfl | rfl := ht
    · exact ⟨s.params, rest, s.draws + 1, rfl⟩
    · exact ⟨Params.default, [], 0, rfl⟩
  exact ⟨rfl, rfl, rangeTable_resetWith p, fun _ _ => portList_resetWith p, unitPolicy_resetWith p, bankAt_resetWith p,
    rfl, rfl, rfl, fun _ => busLatch_resetWith p, rfl, rfl, rfl, rfl, rfl, rfl, rfl, rfl⟩

end Sys2Proof.Machine

/-! ## Simulated time

STEP alone writes `elapsed`: the other commands keep it by their frames, and STEP's own pump keeps it after the sum
(44_scheduler.md R250, 70_reset_and_hazards.md R371). -/

namespace Sys2Proof.Machine

theorem eq_step_of_opcode {i : Instr} (h : i.opcode = .step) : ∃ c, i = .step c := by
  cases i with
  | step c => exact ⟨c, rfl⟩
  | _ => cases h

theorem PumpEffect.elapsed_eq {s t : State} (h : PumpEffect s t) : t.elapsed = s.elapsed :=
  not_imp_comm.1 (h.frame (.inr rfl)).elapsed nofun

/-- A STEP either faults at the time before it, or adds its operand and no more (R250). -/
theorem Effect.elapsed_of_step {c : Word64} {s t : State} (h : Effect (.step c) s t) :
    t.elapsed = s.elapsed ∧ t.phase = .faulted ∨ t.elapsed.toNat = s.elapsed.toNat + c.toNat := by
  cases h with
  | fault | scheduleSpent => exact .inl ⟨rfl, rfl⟩
  | configError _ _ _ hi => simp [Instr.opcode, registrationOpcodes] at hi
  | answer _ hi => simp [Instr.opcode, queryOpcodes] at hi
  | schedule _ _ _ hi => simp [Instr.opcode] at hi
  | step _ _ _ hc h =>
    right
    rw [h.elapsed_eq, pumpStart_elapsed, BitVec.toNat_add_of_lt hc]

/-- Settles O59: a change of the time is in STEP's frame alone, and STEP has one effect that moves it. -/
theorem onlyStepAdvancesTime : Obligations.OnlyStepAdvancesTime := by
  intro i s t hexec
  have heffect := exec_effect hexec
  refine ⟨fun hi => ?_, fun c hi => (hi ▸ heffect).elapsed_of_step⟩
  refine not_imp_comm.1 heffect.frame.elapsed fun hop => ?_
  obtain ⟨c, rfl⟩ := eq_step_of_opcode hop
  exact hi c rfl

end Sys2Proof.Machine
